-- ==== Sys2Proof/Word.lean ====
section
/-! DEFINITION. The word and byte types of the Stadin S4 (spec 07_instruction_words.md R174, 00_scope.md R9). -/

namespace Sys2Proof

/-- A scalar register, a control register or a memory word: 64 bits (R174). -/
abbrev Word := BitVec 64

/-- A byte of memory. -/
abbrev Byte := BitVec 8

/-- One 128-byte line of memory as one value, byte 0 in the low bits (R9, R41). -/
abbrev LineVal := BitVec 1024

/-- One bit for each byte of a 128-byte line (the dirty masks of R41, R42, R55). -/
abbrev ByteMask := BitVec 128

/-- A register number as an encoded 6-bit field (R161). -/
abbrev Reg := BitVec 6

end Sys2Proof
end

