-- ==== Sys2Proof/Syntax.lean ====
section
/-! DEFINITION. The abstract syntax: one constructor of `Instr` for each row of spec/opcode_table.json.
The first groups are the instructions of the Ibvis words (08_opcode_map.md R181-R188); the last groups are
the steps of the module's own agents and of the world outside (95_what_each_step_holds.md), which no word encodes
and which the machine's agenda holds. -/

namespace Sys2Proof

/-- Rounding field RM of the TR tail (R162). -/
inductive Rm where
  | rne | rtz | rup | rdn | rmm | dyn
  deriving DecidableEq, Repr

/-- Order field ORD of the TM tail (R162). -/
inductive MemOrd where
  | plain | acq | rel | ar
  deriving DecidableEq, Repr

/-- The five scopes (R102). -/
inductive Scope where
  | h | c | d | v | s
  deriving DecidableEq, Repr

/-- Element types (R184). -/
inductive Ty where
  | i2 | i4 | i8 | i16 | i32 | i64 | n8 | n16 | n32
  | f16 | bf16 | f32
  | e4m3 | e5m2 | e3m2 | e2m3 | e2m1 | e8m0
  deriving DecidableEq, Repr

/-- Conditions of `vcmp` and `vfcmp` (R185); `uo` is of `vfcmp` alone. -/
inductive Cc where
  | eq | ne | lt | le | gt | ge | uo
  deriving DecidableEq, Repr

/-- The operations of `vscan` (R185, R248). -/
inductive ScanOp where
  | add | min | max | fadd
  deriving DecidableEq, Repr

/-- Sizes of a scalar load (R186). -/
inductive LdSize where
  | b | h | w | d | bu | hu | wu
  deriving DecidableEq, Repr

/-- Sizes of a scalar store (R186). -/
inductive StSize where
  | b | h | w | d
  deriving DecidableEq, Repr

/-- Register element widths of the vector memory instructions (R186). -/
inductive EWidth where
  | x2 | x4 | b | h | w | d
  deriving DecidableEq, Repr

/-- The fields of a TR-tail element instruction (R161, R162, R184). A field the instruction does not use is
zero: `i2` is type code 0 and `rne` is rounding code 0. -/
structure TR where
  rd  : Reg := 0
  rs1 : Reg := 0
  rs2 : Reg := 0
  rs3 : Reg := 0
  vm  : BitVec 4 := 0
  rm  : Rm := .rne
  mp  : Bool := false
  tp  : Bool := false
  ty  : Ty := .i2
  ty2 : Ty := .i2
  s   : Bool := false
  deriving DecidableEq, Repr

/-- The fields of a vector memory instruction (R257). -/
structure VMem where
  rd   : Reg := 0
  rs1  : Reg := 0
  rs2  : Reg := 0
  w    : EWidth := .b
  ord  : MemOrd := .plain
  sc   : Scope := .h
  vm   : BitVec 4 := 0
  disp : BitVec 23 := 0
  deriving DecidableEq, Repr

/-- The fields of an `amo` (R261): `dbl` is the 8-byte form. -/
structure Amo where
  rd   : Reg := 0
  rs1  : Reg := 0
  rs2  : Reg := 0
  dbl  : Bool := false
  ord  : MemOrd := .plain
  sc   : Scope := .h
  disp : BitVec 23 := 0
  deriving DecidableEq, Repr

/-- Which cache an event names (R41, R42, R46, R55): the scalar L1 of a hart (owner = 8 x cluster + hart), the
cluster cache of a cluster, a gathered line of that cache, or an L2 slice. -/
inductive CacheKind where
  | l1 | cluster | gathered | l2
  deriving DecidableEq, Repr

/-- What the patrol scrubber meets at a line (R74). -/
inductive ScrubFind where
  | clean | correctable | uncorrectable
  deriving DecidableEq, Repr

/-- What ends a `wfe` (R149). -/
inductive WakeReason where
  | write | timeout | resume
  deriving DecidableEq, Repr

/-- The shared resources of a cluster (R344). -/
inductive Resource where
  | cachePort | matrixQueue | rally | copyChannel | tileFetch
  deriving DecidableEq, Repr

/-- The registers whose write moves octets, clusters or ports (R384). -/
inductive PartRes where
  | poct | pclu | plink
  deriving DecidableEq, Repr

/-- What a write of device registers brings (R382): its bytes and their number. -/
structure RegBytes where
  n   : Nat
  val : LineVal
  deriving DecidableEq, Repr

/-- What an access over a Terette Link brings (R75, R387): its bytes, and whether they carry the mark of a poisoned line. -/
structure LinkData where
  val : LineVal
  bad : Bool
  deriving DecidableEq, Repr

/-- One constructor for each row of spec/opcode_table.json. -/
inductive Instr where
  -- scalar integer, register operands (R213, R214)
  | add (rd rs1 rs2 : Reg)
  | sub (rd rs1 rs2 : Reg)
  | mul (rd rs1 rs2 : Reg)
  | mulh (rd rs1 rs2 : Reg)
  | mulhu (rd rs1 rs2 : Reg)
  | div (rd rs1 rs2 : Reg)
  | divu (rd rs1 rs2 : Reg)
  | rem (rd rs1 rs2 : Reg)
  | remu (rd rs1 rs2 : Reg)
  | and (rd rs1 rs2 : Reg)
  | or (rd rs1 rs2 : Reg)
  | xor (rd rs1 rs2 : Reg)
  | shl (rd rs1 rs2 : Reg)
  | shr (rd rs1 rs2 : Reg)
  | sar (rd rs1 rs2 : Reg)
  | slt (rd rs1 rs2 : Reg)
  | sltu (rd rs1 rs2 : Reg)
  | min (rd rs1 rs2 : Reg)
  | max (rd rs1 rs2 : Reg)
  | minu (rd rs1 rs2 : Reg)
  | maxu (rd rs1 rs2 : Reg)
  | clz (rd rs1 : Reg)
  | ctz (rd rs1 : Reg)
  | popc (rd rs1 : Reg)
  | mov (rd rs1 : Reg)
  | sel (rd rs1 rs2 rs3 : Reg)
  -- scalar integer, immediate (R215)
  | addi (rd rs1 : Reg) (imm : BitVec 32)
  | andi (rd rs1 : Reg) (imm : BitVec 32)
  | ori (rd rs1 : Reg) (imm : BitVec 32)
  | xori (rd rs1 : Reg) (imm : BitVec 32)
  | shli (rd rs1 : Reg) (n : BitVec 6)
  | shri (rd rs1 : Reg) (n : BitVec 6)
  | sari (rd rs1 : Reg) (n : BitVec 6)
  | slti (rd rs1 : Reg) (imm : BitVec 32)
  | sext (rd rs1 : Reg) (w : BitVec 7)
  | zext (rd rs1 : Reg) (w : BitVec 7)
  | bfx (rd rs1 : Reg) (pos : BitVec 6) (len : BitVec 7)
  | bfi (rd rs1 : Reg) (pos : BitVec 6) (len : BitVec 7)
  | li (rd : Reg) (imm : BitVec 32)
  | liHi (rd : Reg) (imm : BitVec 32)
  -- scalar FP32 (R218-R220)
  | fadd (rd rs1 rs2 : Reg) (rm : Rm)
  | fsub (rd rs1 rs2 : Reg) (rm : Rm)
  | fmul (rd rs1 rs2 : Reg) (rm : Rm)
  | fdiv (rd rs1 rs2 : Reg) (rm : Rm)
  | fsqrt (rd rs1 : Reg) (rm : Rm)
  | ffma (rd rs1 rs2 rs3 : Reg) (rm : Rm)
  | fmin (rd rs1 rs2 : Reg)
  | fmax (rd rs1 rs2 : Reg)
  | fcmpEq (rd rs1 rs2 : Reg)
  | fcmpLt (rd rs1 rs2 : Reg)
  | fcmpLe (rd rs1 rs2 : Reg)
  | fcmpUo (rd rs1 rs2 : Reg)
  | fclass (rd rs1 : Reg)
  | fneg (rd rs1 : Reg)
  | fabs (rd rs1 : Reg)
  | fcvtI32F32 (rd rs1 : Reg) (rm : Rm)
  | fcvtN32F32 (rd rs1 : Reg) (rm : Rm)
  | fcvtI64F32 (rd rs1 : Reg) (rm : Rm)
  | fcvtF32I32 (rd rs1 : Reg) (rm : Rm)
  | fcvtF32N32 (rd rs1 : Reg) (rm : Rm)
  | fcvtF32I64 (rd rs1 : Reg) (rm : Rm)
  -- pair slots (R187, R188, R216)
  | pairScalarRR (fn rd rs rs2 : Reg)
  | pairAddi (rd rs : Reg) (imm : BitVec 12)
  | pairAndi (rd rs : Reg) (imm : BitVec 12)
  | pairOri (rd rs : Reg) (imm : BitVec 12)
  | pairXori (rd rs : Reg) (imm : BitVec 12)
  | pairShli (rd rs : Reg) (n : BitVec 6)
  | pairShri (rd rs : Reg) (n : BitVec 6)
  | pairSari (rd rs : Reg) (n : BitVec 6)
  | pairSlti (rd rs : Reg) (imm : BitVec 12)
  | pairLi (rd : Reg) (imm : BitVec 12)
  | pairLd (sz : LdSize) (rd rs : Reg) (imm : BitVec 12)
  | pairSt (sz : StSize) (rd rs : Reg) (imm : BitVec 12)
  | pairFpRR (fn rd rs rs2 : Reg)
  | pairVectorRR (fn rd rs rs2 : Reg)
  -- branches, jumps, loops (R222, R226, R227, R229)
  | beq (rs1 rs2 : Reg) (off : BitVec 32)
  | bne (rs1 rs2 : Reg) (off : BitVec 32)
  | blt (rs1 rs2 : Reg) (off : BitVec 32)
  | bge (rs1 rs2 : Reg) (off : BitVec 32)
  | bltu (rs1 rs2 : Reg) (off : BitVec 32)
  | bgeu (rs1 rs2 : Reg) (off : BitVec 32)
  | jmp (off : BitVec 32)
  | jal (rd : Reg) (off : BitVec 32)
  | ret (rs1 : Reg)
  | loop (off : BitVec 32)
  | loopInit (rs1 : Reg) (stages : BitVec 4)
  | yield
  -- vector configuration (R231)
  | setvl (rd rs1 : Reg) (sew : BitVec 3)
  | vclaim (rd : Reg) (req floor : BitVec 3)
  | vcfg (rd : Reg) (gs : BitVec 3) (mp tp : Bool)
  -- vector integer (R241, R242)
  | vadd (f : TR)
  | vsub (f : TR)
  | vmul (f : TR)
  | vmulh (f : TR)
  | vmin (f : TR)
  | vmax (f : TR)
  | vand (f : TR)
  | vor (f : TR)
  | vxor (f : TR)
  | vshl (f : TR)
  | vshr (f : TR)
  | vsar (f : TR)
  | vcmp (cc : Cc) (f : TR)
  | vsel (f : TR)
  | vwadd (f : TR)
  | vwmul (f : TR)
  | vnarrow (f : TR)
  | vdot4 (f : TR)
  -- vector floating point (R243-R246)
  | vfadd (f : TR)
  | vfsub (f : TR)
  | vfmul (f : TR)
  | vfma (f : TR)
  | vfnma (f : TR)
  | vfdiv (f : TR)
  | vfsqrt (f : TR)
  | vfmin (f : TR)
  | vfmax (f : TR)
  | vfcmp (cc : Cc) (f : TR)
  | vfabs (f : TR)
  | vfneg (f : TR)
  | vfexpo (f : TR)
  | vfscale (f : TR)
  | vrsqrte (f : TR)
  | vrcpe (f : TR)
  | vexp2e (f : TR)
  | vlog2e (f : TR)
  -- conversions (R202-R206)
  | vcvt (f : TR)
  | vcvtSr (f : TR)
  | vmxscale (f : TR)
  | vmxq (sr : Bool) (f : TR)
  | vmxdq (f : TR)
  -- reductions and scans (R247, R248)
  | vredsum (f : TR)
  | vfredsum (f : TR)
  | vredmin (f : TR)
  | vredmax (f : TR)
  | vfredmin (f : TR)
  | vfredmax (f : TR)
  | vscan (op : ScanOp) (f : TR)
  -- permutes (R249)
  | vslideup (f : TR)
  | vslidedn (f : TR)
  | vperm (f : TR)
  | vcompress (f : TR)
  | vexpand (f : TR)
  | vbcast (f : TR)
  | vextS (f : TR)
  | vinsS (f : TR)
  -- masks (R250)
  | mand (f : TR)
  | mor (f : TR)
  | mxor (f : TR)
  | mnot (f : TR)
  | mpopc (f : TR)
  | mfirst (f : TR)
  -- matrix (R284)
  | mshape (f : TR)
  | mzero (f : TR)
  | mpm (blk fet : Bool) (f : TR)
  | mopa (f : TR)
  | mfetch (f : TR)
  | mscacc (f : TR)
  | mext (f : TR)
  | mextFlags (f : TR)
  | mins (f : TR)
  | mld (f : TR)
  | mst (f : TR)
  -- scalar memory and streams (R252, R255)
  | ld (rd rs1 : Reg) (sz : LdSize) (ord : MemOrd) (sc : Scope) (disp : BitVec 23)
  | st (rs1 rs2 : Reg) (sz : StSize) (ord : MemOrd) (sc : Scope) (disp : BitVec 23)
  | qset (qd rs1 rs2 : Reg) (esz : EWidth) (chain : Bool) (sc : Scope)
  | qstr (qd rs1 : Reg)
  | qlen (rd qs : Reg)
  | qinfo (rd qs : Reg) (sel : BitVec 2)
  -- vector memory (R257)
  | vld (f : VMem)
  | vldff (f : VMem)
  | vst (f : VMem)
  | vldx (f : VMem)
  | vstx (f : VMem)
  -- atomics (R261)
  | amoAdd (f : Amo)
  | amoAnd (f : Amo)
  | amoOr (f : Amo)
  | amoXor (f : Amo)
  | amoMin (f : Amo)
  | amoMax (f : Amo)
  | amoSwap (f : Amo)
  | amocas (rd rs1 rs2 rs3 : Reg) (dbl : Bool) (ord : MemOrd) (sc : Scope) (disp : BitVec 17)
  | famoAdd (rd rs1 rs2 : Reg) (ord : MemOrd) (sc : Scope) (disp : BitVec 23)
  -- fences and maintenance (R263, R264)
  | fence (sc : Scope)
  | fenceB
  | clnR (rs1 rs2 : Reg)
  | invR (rs1 rs2 : Reg)
  | cinvR (rs1 rs2 : Reg)
  | discR (rs1 rs2 : Reg)
  -- history (R266)
  | happ (rs1 rs2 : Reg)
  | hld (rd rs1 rs2 : Reg) (res : BitVec 4) (e : BitVec 8)
  | hldv (rd rs1 rs2 : Reg) (res : BitVec 4)
  | hstat (rd rs1 : Reg) (sel : BitVec 2) (lev : BitVec 4)
  -- pools (R273)
  | kvapp (rd rs1 : Reg)
  | poolPop (rd rs1 : Reg)
  | poolPush (rs1 rs2 : Reg)
  -- tiles and engine commands (R301)
  | proof (n k1 : BitVec 7) (rs2 : Reg)
  | unproof (n : BitVec 7)
  | ownGive (n k1 : BitVec 7) (dest : BitVec 2)
  | ownTake (n k1 : BitVec 7)
  | ownTest (rd : Reg) (n : BitVec 7)
  | sld (n : BitVec 7) (off : BitVec 9) (rs1 rs2 : Reg)
  | sst (n : BitVec 7) (off : BitVec 9) (rs1 rs2 : Reg)
  | cpy (rs1 : Reg)
  | enq (rs1 : Reg)
  | enqb (rd rs1 : Reg) (mk : BitVec 4)
  | nodeDone
  | rallyRun (n : BitVec 7)
  | rallyStat (rd : Reg) (n : BitVec 7)
  -- bank units (R324)
  | bcmd (rs1 : Reg)
  | bgath (rd rs1 rs2 : Reg) (mk ef : BitVec 4)
  | bscadd (rd rs1 rs2 : Reg) (mk ef : BitVec 4)
  -- barriers (R149)
  | barArr (rd : Reg) (lvl : BitVec 3)
  | barWait (rs1 : Reg) (lvl : BitVec 3)
  | barSync (lvl : BitVec 3)
  | wfe (rd rs1 : Reg)
  -- system (R365)
  | trap (code : BitVec 32)
  | eret
  | svc (code : BitVec 32)
  | brk (code : BitVec 32)
  | ctlRd (rd : Reg) (num : BitVec 5)
  | ctlWr (num : BitVec 5) (rs1 : Reg)
  | ctlSet (num : BitVec 5) (rs1 : Reg)
  | ctlClr (num : BitVec 5) (rs1 : Reg)
  | ctxResume (rs1 : Reg)
  | ctxResumeRetire (rs1 : Reg)
  | pteInv (rs1 rs2 : Reg) (sc : BitVec 2)
  | hcfgRegister (rs1 : Reg)
  | hcfgRestart (rs1 : Reg)
  | hcfgRetire (rs1 : Reg)
  -- EVENTS: graph engine and contexts
  | dispatchNode
  | clusterDrain (slot : Nat)
  | contextSwitchOut (slot : Nat)
  | contextResume (slot cluster hart : Nat)
  | registerGranuleEvict (slot granule : Nat)
  | producerComplete (slot tag : Nat)
  | postedCauseTaken
  | asyncEventTaken
  | timerEvent (slot : Nat)
  | signalEvent (slot : Nat)
  | watchdogHalfLimit (slot : Nat)
  | watchdogExpiry (slot : Nat)
  | timeBasePeriod
  | resourceGrant (cluster : Nat) (res : Resource)
  | wfeWake (slot : Nat) (why : WakeReason)
  -- EVENTS: caches and homes
  | lineWriteBack (k : CacheKind) (owner line : Nat)
  | dirtyWriteBackSweep
  | lineStaleTimeout (k : CacheKind) (owner line : Nat)
  | watermarkBeacon (die : Nat)
  | homeApplyWrite (origin : Nat)
  | lineFillReturn (k : CacheKind) (owner line : Nat)
  | stalledWriteResume (slot : Nat)
  | rowActivateHint (line : Nat) (idle : Bool)
  | chainHeaderRead (slot q : Nat)
  | chainPrefetch (slot q : Nat)
  -- EVENTS: stager, scrubber, frames, keys
  | stagerPromotion (slot page : Nat)
  | stagerDemotion (part : Nat)
  | stagingWaitExpiry (slot : Nat)
  | patrolScrubLine (line : Nat) (found : ScrubFind)
  | frameScrub (frame : Nat)
  | frameOwnerTableWrite (frame : Nat) (val : Byte)
  | keySlotRekey (key allot : Nat)
  -- EVENTS: Kneader
  | kneaderMerge (desc level : Nat)
  | kneaderExpire (desc : Nat)
  | stalledAppendCommit (slot : Nat)
  | historyNodeAppend (slot : Nat)
  -- EVENTS: engines, matrix path, banks
  | engineCommandComplete (id : Nat)
  | rallySortDone (cluster : Nat)
  | rallyPark (cluster steps : Nat)
  | rallyResume (cluster : Nat)
  | matrixEntryComplete (slot : Nat)
  | tileFetchLineRead (slot : Nat)
  | bankCommandComplete (id : Nat)
  | bankCommandStop (id : Nat)
  | mailboxMessage (id block : Nat)
  | bgathDataReturn (id : Nat)
  | bscaddUpdate (id : Nat)
  -- EVENTS: device registers and interrupts
  | launch (part : Nat) (val : Word)
  | submissionRingEntry (part : Nat)
  | intpost (part : Nat) (val : Word)
  | l2scr (part : Nat) (val : Word)
  | l2WayConversionDone (part : Nat)
  | psched (part : Nat) (val : Word)
  | ppol (part : Nat) (val : Word)
  | partitionResourceWrite (part : Nat) (res : PartRes) (val : Nat)
  | stgstat (part : Nat) (val : Word)
  | registerWrite (off : Nat) (val : RegBytes)
  -- EVENTS: resets and firmware
  | warm
  | faultTriggeredWarmReset
  | coldStart
  | warmStartComplete
  | firmwareUpdate (image : Nat)
  -- EVENTS: links, root ports, application cores, management
  | linkFlitReceive (port seq : Nat) (good : Bool)
  | linkReplay (port seq : Nat)
  | laneRepair (port lane : Nat)
  | retrain (port : Nat) (good : Bool)
  | portDown (port : Nat)
  | remoteAccess (wr : Bool) (pa n : Nat) (val : LinkData)
  | rootPortWrite (pa n : Nat) (val : LineVal) (relaxed : Bool)
  | powerManagerInterval (forecast hottest : Nat) (clusters : List Nat)
  | sensorSample
  | spdmRequest (nonce : Nat)
  | applicationCoreAccess (wr : Bool) (pa n : Nat) (val : LineVal)
  | rootPortRead (pa n : Nat)
  | stgctl (part : Nat) (val : Word)
  deriving DecidableEq, Repr

/-- The control field C of a word (R165); `sw` bit n-1 is the wait on tag n. -/
structure Ctl where
  cb   : Bool := false
  pd   : BitVec 3 := 0
  sa   : BitVec 3 := 0
  sw   : BitVec 7 := 0
  hint : BitVec 2 := 0
  deriving DecidableEq, Repr

/-- The body of a word: one full instruction or a pair of slots (R160). -/
inductive Body where
  | full (i : Instr)
  | pair (a b : Instr)
  deriving DecidableEq, Repr

/-- One decoded 80-bit word (R159). -/
structure IWord where
  ctl  : Ctl
  body : Body
  deriving DecidableEq, Repr

end Sys2Proof
end

