-- ==== Sys2Proof/WellFormed.lean ====
section
/-! DEFINITION. Which terms of the syntax are instructions: the register-file, type, rounding, order, scope and
immediate limits of R161-R164, R182-R188 and of each chapter's encoding table. Values that the Lean types
already exclude (a reserved rounding or type code, an immediate that is too wide) need no check here. -/

namespace Sys2Proof

/-- Register element width in bits (R184, R192, R193). -/
def Ty.bits : Ty → Nat
  | .i2 => 2 | .i4 => 4 | .i8 => 8 | .i16 => 16 | .i32 => 32 | .i64 => 64
  | .n8 => 8 | .n16 => 16 | .n32 => 32
  | .f16 => 16 | .bf16 => 16 | .f32 => 32
  | .e4m3 => 8 | .e5m2 => 8 | .e3m2 => 8 | .e2m3 => 8 | .e2m1 => 4 | .e8m0 => 8

/-- i types (R193). -/
def Ty.isI : Ty → Bool
  | .i2 | .i4 | .i8 | .i16 | .i32 | .i64 => true
  | _ => false

/-- n types (R193). -/
def Ty.isN : Ty → Bool
  | .n8 | .n16 | .n32 => true
  | _ => false

/-- i and n types. -/
def Ty.isInt (t : Ty) : Bool := t.isI || t.isN

/-- f32, f16 and bf16 (R243). -/
def Ty.isFp : Ty → Bool
  | .f32 | .f16 | .bf16 => true
  | _ => false

/-- e4m3, e5m2, e3m2, e2m3 and e2m1 (R202, R284). -/
def Ty.isNarrow : Ty → Bool
  | .e4m3 | .e5m2 | .e3m2 | .e2m3 | .e2m1 => true
  | _ => false

/-- The integer types of `vcvt` (R202). -/
def Ty.isCvtInt : Ty → Bool
  | .i4 | .i8 | .i16 | .i32 | .n8 | .n16 | .n32 => true
  | _ => false

/-- The element formats of MX blocks (R200, R202). -/
def Ty.isMx (t : Ty) : Bool := t.isNarrow || t == .i8

/-- Bits of a register element (R186). -/
def EWidth.bits : EWidth → Nat
  | .x2 => 2 | .x4 => 4 | .b => 8 | .h => 16 | .w => 32 | .d => 64

namespace TR

/-- Every field that a mask or policy would fill is zero (R162, R235). -/
def noElem (f : TR) : Bool := f.vm == 0 && !f.mp && !f.tp

/-- The shape of an element operation: unused fields zero (R161). `us2`, `us3`, `uty2` say which fields the
operation uses, `us` whether S = 1 is allowed, `rounds` whether RM is free. -/
def shape (f : TR) (us2 us3 uty2 us rounds : Bool) : Bool :=
  (us2 || f.rs2 == 0) && (us3 || f.rs3 == 0) && (uty2 || f.ty2 == .i2) && (us || !f.s)
    && (rounds || f.rm == .rne)

/-- The group of `g` registers at `base` starts at a multiple of `g` (R201). -/
def groupAt (base : Reg) (g : Nat) : Bool := base.toNat % g == 0

/-- A destination group of `g` registers overlaps the source `src` at no register but its first (R238). -/
def noOverlap (dst : Reg) (g : Nat) (src : Reg) : Bool :=
  !(dst.toNat < src.toNat && src.toNat < dst.toNat + g)

/-- Group rules of a conversion from `ty2` to `ty` (R201, R238): the wide operand is a group. -/
def cvtGroups (f : TR) : Bool :=
  if f.ty2.bits < f.ty.bits then
    groupAt f.rd (f.ty.bits / f.ty2.bits) && noOverlap f.rd (f.ty.bits / f.ty2.bits) f.rs1
  else groupAt f.rs1 (f.ty2.bits / f.ty.bits)

/-- R241 base row. -/
def wfInt (f : TR) : Bool := f.ty.isInt && f.shape true false false true false

/-- R242 widening rows. -/
def wfWiden (f : TR) : Bool :=
  f.ty.isInt && f.ty != .i64 && f.shape true false false true false && groupAt f.rd 2
    && noOverlap f.rd 2 f.rs1 && (f.s || noOverlap f.rd 2 f.rs2)

/-- R242 `vnarrow`. -/
def wfNarrow (f : TR) : Bool :=
  f.shape false false true false false && f.ty2.bits == 2 * f.ty.bits
    && ((f.ty.isI && f.ty2.isI) || (f.ty.isN && f.ty2.isN)) && groupAt f.rs1 2

/-- R242 `vdot4`. -/
def wfDot4 (f : TR) : Bool :=
  (f.ty == .i2 || f.ty == .i4 || f.ty == .i8 || f.ty == .n8) && f.shape true false false false false

/-- R243 and R244 rows: which sources an operation names, S, and whether it rounds. -/
def wfFp (f : TR) (us2 us3 us rounds : Bool) : Bool := f.ty.isFp && f.shape us2 us3 false us rounds

/-- R245, R246: f32 only, and the rounding is fixed, so RM is 000. -/
def wfEst (f : TR) : Bool := f.ty == .f32 && f.shape false false false false false

/-- R202 `vcvt`. -/
def wfCvt (f : TR) : Bool :=
  f.shape false false true false true && f.ty != f.ty2 && f.cvtGroups &&
  (((f.ty.isFp || f.ty.isNarrow) && (f.ty2.isFp || f.ty2.isNarrow))
    || (f.ty.isCvtInt && f.ty2.isFp) || (f.ty.isFp && f.ty2.isCvtInt)
    || (f.ty == .f32 && f.ty2 == .e8m0))

/-- R202 `vcvt.sr`. -/
def wfCvtSr (f : TR) : Bool :=
  f.shape false false true false false && f.cvtGroups &&
  (f.ty == .f16 || f.ty == .bf16 || f.ty.isNarrow) && f.ty2.isFp && f.ty.bits < f.ty2.bits

/-- R202 `vmxscale`: its one vector operand of elements has the width of TY2. -/
def wfMxScale (f : TR) : Bool :=
  f.shape false false true false false && f.ty.isMx && f.ty2.isFp

/-- R202 `vmxq`. -/
def wfMxq (f : TR) : Bool :=
  f.shape true false true false false && f.ty.isMx && f.ty2.isFp && f.cvtGroups

/-- R202 `vmxdq`. -/
def wfMxdq (f : TR) : Bool :=
  f.shape true false true false true && f.ty.isFp && f.ty2.isMx && f.cvtGroups

/-- R247: the mask policy must be 0. -/
def wfRed (f : TR) (fp rounds : Bool) : Bool :=
  (if fp then f.ty.isFp else f.ty.isInt) && f.shape true false false false rounds && !f.mp

/-- R248. -/
def wfScan (f : TR) (fp : Bool) : Bool :=
  (if fp then f.ty.isFp else f.ty.isInt) && f.shape false false false false fp

/-- R249: TY gives only the width. -/
def wfPerm (f : TR) (us2 us3 : Bool) : Bool := f.ty.isI && f.shape us2 us3 false false false

/-- R250: mask operations between mask registers. -/
def wfMaskOp (f : TR) (us2 : Bool) : Bool :=
  f.ty == .i2 && f.shape us2 false false false false && f.vm == 0 && !f.mp
    && f.rd.toNat < 16 && f.rs1.toNat < 16 && f.rs2.toNat < 16

/-- R250: `mpopc` and `mfirst`. -/
def wfMaskRd (f : TR) : Bool :=
  f.ty == .i2 && f.shape false false false false false && !f.mp && !f.tp && f.rs1.toNat < 16

/-- R284: no mask, policy, rounding or S. -/
def wfMat (f : TR) : Bool := f.noElem && f.rm == .rne && !f.s

/-- R284: `mshape` families. -/
def wfShape (f : TR) : Bool :=
  f.wfMat && f.rd == 0 && f.rs2 == 0 && f.rs3 == 0 &&
  ((f.ty.isNarrow && f.ty2.isNarrow) || (f.ty == .bf16 && f.ty2 == .bf16) || (f.ty == .f16 && f.ty2 == .f16)
    || ((f.ty == .i8 || f.ty == .i4 || f.ty == .i2) && (f.ty2 == .i8 || f.ty2 == .i4 || f.ty2 == .i2)))

/-- R284: TY = TY2 = 0. -/
def noTy (f : TR) : Bool := f.ty == .i2 && f.ty2 == .i2

/-- R284 `mext`. -/
def wfMext (f : TR) : Bool :=
  f.rs1.toNat < 8 && f.rs3 == 0 && !f.s &&
  ((f.ty2 == .f32 && (f.ty.isFp || f.ty == .e4m3 || f.ty == .e5m2))
    || (f.ty2 == .i32 && (f.ty == .i32 || f.ty == .i16 || f.ty == .i8 || f.ty == .i4)))

/-- R284 `mins`. -/
def wfMins (f : TR) : Bool :=
  f.rd.toNat < 8 && f.rs3 == 0 && !f.s && !f.mp && !f.tp && f.rm == .rne &&
  ((f.ty == .f32 && f.ty2.isFp)
    || (f.ty == .i32 && (f.ty2 == .i32 || f.ty2 == .i16 || f.ty2 == .i8 || f.ty2 == .i4)))

end TR

/-- R252, R257: the scope is 0 on a plain access. -/
def plainScope (ord : MemOrd) (sc : Scope) : Bool := ord != .plain || sc == .h

namespace VMem

/-- R257: unit-stride forms name a stream register and have no displacement. -/
def wfUnit (f : VMem) (acq rel : Bool) : Bool :=
  f.rs1.toNat < 16 && f.rs2 == 0 && f.disp == 0 && plainScope f.ord f.sc &&
  (f.ord == .plain || (acq && f.ord == .acq) || (rel && f.ord == .rel))

/-- R257, R260: indexed forms; the index group starts at a multiple of its size. -/
def wfIdx (f : VMem) (acq rel : Bool) : Bool :=
  f.rs1.toNat < 16 && plainScope f.ord f.sc &&
  (f.ord == .plain || (acq && f.ord == .acq) || (rel && f.ord == .rel)) &&
  (match f.w with
   | .x2 | .x4 => false
   | .b => f.rs2.toNat % 4 == 0
   | .h => f.rs2.toNat % 2 == 0
   | .w | .d => true)

end VMem

/-- R365: the control registers that a write may name. -/
def ctlWritable (n : BitVec 5) : Bool :=
  (10 ≤ n.toNat && n.toNat ≤ 17) || (21 ≤ n.toNat && n.toNat ≤ 28)

/-- R187: FN values of slot opcode 0x00; `clz`, `ctz`, `popc` and `mov` need rs2 = 0. -/
def wfSlotScalar (fn rs2 : Reg) : Bool :=
  (fn.toNat ≤ 4 || (9 ≤ fn.toNat && fn.toNat ≤ 24)) && (fn.toNat < 21 || rs2 == 0)

/-- R187: FN values of slot opcode 0x20. DESIGN CHOICE: `fneg` and `fabs` need rs2 = 0, as a register that is not used does in form F
(R161), although R187 asks it of four other operations alone (log 95). -/
def wfSlotFp (fn rs2 : Reg) : Bool :=
  (fn.toNat ≤ 2 || fn.toNat == 6 || fn.toNat == 7) || ((fn.toNat == 13 || fn.toNat == 14) && rs2 == 0)

/-- The instruction is one of the slot forms of R187. -/
def Instr.isSlot : Instr → Bool
  | .pairScalarRR .. | .pairAddi .. | .pairAndi .. | .pairOri .. | .pairXori .. | .pairShli .. | .pairShri ..
  | .pairSari .. | .pairSlti .. | .pairLi .. | .pairLd .. | .pairSt .. | .pairFpRR .. | .pairVectorRR .. => true
  | _ => false

/-- Well-formed instructions of form F and slots of form P. An event (chapter 95) is never in a word, so it
is well formed as a term whatever its arguments are. -/
def Instr.wellFormed : Instr → Bool
  | .sext _ _ w | .zext _ _ w => 1 ≤ w.toNat && w.toNat ≤ 64
  | .bfx _ _ pos len | .bfi _ _ pos len => 1 ≤ len.toNat && pos.toNat + len.toNat ≤ 64
  | .pairScalarRR fn _ _ rs2 => wfSlotScalar fn rs2
  | .pairFpRR fn _ _ rs2 => wfSlotFp fn rs2
  | .pairVectorRR fn _ _ _ => fn.toNat ≤ 11
  | .loopInit _ n => 1 ≤ n.toNat && n.toNat ≤ 8
  | .setvl _ _ sew => sew.toNat ≤ 5
  | .vclaim _ req fl => req.toNat ≤ 6 && fl.toNat ≤ req.toNat && ((req == 0) == (fl == 0))
  | .vcfg _ gs _ _ => gs.toNat ≤ 5
  | .vadd f | .vsub f | .vmul f | .vmulh f | .vmin f | .vmax f | .vand f | .vor f | .vxor f | .vshl f | .vshr f
  | .vsar f => f.wfInt
  | .vcmp cc f => f.wfInt && f.rd.toNat < 16 && cc != .uo
  | .vsel f => f.ty.isI && f.shape true false false false false && !f.mp
  | .vwadd f | .vwmul f => f.wfWiden
  | .vnarrow f => f.wfNarrow
  | .vdot4 f => f.wfDot4
  | .vfadd f | .vfsub f | .vfmul f => f.wfFp true false true true
  | .vfma f | .vfnma f => f.wfFp true true false true
  | .vfdiv f => f.wfFp true false false true
  | .vfsqrt f => f.wfFp false false false true
  | .vfmin f | .vfmax f => f.wfFp true false true false
  | .vfcmp _ f => f.wfFp true false false false && f.rd.toNat < 16
  | .vfabs f | .vfneg f | .vfexpo f => f.wfFp false false false false
  | .vfscale f => f.wfFp true false true true
  | .vrsqrte f | .vrcpe f | .vexp2e f | .vlog2e f => f.wfEst
  | .vcvt f => f.wfCvt
  | .vcvtSr f => f.wfCvtSr
  | .vmxscale f => f.wfMxScale
  | .vmxq _ f => f.wfMxq
  | .vmxdq f => f.wfMxdq
  | .vredsum f | .vredmin f | .vredmax f => f.wfRed false false
  | .vfredsum f => f.wfRed true true
  | .vfredmin f | .vfredmax f => f.wfRed true false
  | .vscan op f => f.wfScan (op == .fadd)
  | .vslideup f | .vslidedn f => f.wfPerm false true
  | .vperm f => f.wfPerm true false
  | .vcompress f => f.wfPerm false false && !f.mp
  | .vexpand f => f.wfPerm false false
  | .vbcast f => f.wfPerm false true && f.rs1 == 0
  | .vextS f | .vinsS f => f.wfPerm false true && f.noElem
  | .mand f | .mor f | .mxor f => f.wfMaskOp true
  | .mnot f => f.wfMaskOp false
  | .mpopc f | .mfirst f => f.wfMaskRd
  | .mshape f => f.wfShape
  | .mzero f => f.wfMat && f.noTy && f.rd.toNat < 8 && f.rs1 == 0 && f.rs2 == 0 && f.rs3 == 0
  | .mpm _ fet f => f.wfMat && f.noTy && f.rd.toNat < 8 && f.rs3 == 0 && (!fet || f.rs1 == 0)
  | .mopa f => !f.mp && !f.tp && f.rm == .rne && !f.s && f.rd.toNat < 8 && f.rs3 == 0 && f.ty2 == .i2
      && (f.ty == .bf16 || f.ty == .f16 || f.ty == .i8)
  | .mfetch f => f.wfMat && f.noTy && f.rd == 0
  | .mscacc f => f.wfMat && f.ty == .e8m0 && f.ty2 == .i2 && f.rd.toNat < 8 && f.rs1.toNat < 8
  | .mext f => f.wfMext
  | .mextFlags f => f.wfMat && f.ty == .i2 && f.ty2 == .i32 && f.rd.toNat < 16 && f.rs1.toNat < 8 && f.rs2 == 0
      && f.rs3 == 0
  | .mins f => f.wfMins
  | .mld f | .mst f => f.wfMat && f.noTy && f.rd.toNat < 8 && f.rs3 == 0
  | .ld _ _ _ ord sc _ => (ord == .plain || ord == .acq) && plainScope ord sc
  | .st _ _ _ ord sc _ => (ord == .plain || ord == .rel) && plainScope ord sc
  | .qset qd _ _ _ chain sc => qd.toNat < 16 && (chain || sc == .h)
  | .qstr qd _ => qd.toNat < 16
  | .qlen _ qs => qs.toNat < 16
  | .qinfo _ qs _ => qs.toNat < 16
  | .vld f => f.wfUnit true false
  | .vldff f => f.wfUnit false false
  | .vst f => f.wfUnit false true
  | .vldx f => f.wfIdx true false
  | .vstx f => f.wfIdx false true
  | .hstat _ _ k lev => k == 3 || lev == 0
  | .enqb rd _ _ => rd.toNat < 16
  | .bgath _ _ _ _ ef | .bscadd _ _ _ _ ef => ef.toNat ≤ 8
  | .ctlRd _ n => n.toNat ≤ 28
  | .ctlWr n _ | .ctlSet n _ | .ctlClr n _ => ctlWritable n
  | _ => true

/-- R166: the variable-latency producers. -/
def Instr.variableLatency : Instr → Bool
  | .ld .. | .pairLd .. | .vld .. | .vldff .. | .vldx ..
  | .amoAdd .. | .amoAnd .. | .amoOr .. | .amoXor .. | .amoMin .. | .amoMax .. | .amoSwap .. | .amocas ..
  | .famoAdd .. | .div .. | .divu .. | .rem .. | .remu .. | .fdiv .. | .fsqrt ..
  | .vfdiv .. | .vfsqrt .. | .vrsqrte .. | .vrcpe .. | .vexp2e .. | .vlog2e ..
  | .hld .. | .hldv .. | .hstat .. | .mext .. | .mextFlags .. | .poolPop .. | .kvapp .. | .enqb .. | .bgath .. => true
  | _ => false

/-- Scalar registers that a slot reads, s0 not counted (R164, R188). -/
def Instr.slotReads : Instr → List Reg
  | .pairScalarRR fn _ rs rs2 => if 21 ≤ fn.toNat then [rs] else [rs, rs2]
  | .pairAddi _ rs _ | .pairAndi _ rs _ | .pairOri _ rs _ | .pairXori _ rs _ | .pairShli _ rs _ | .pairShri _ rs _
  | .pairSari _ rs _ | .pairSlti _ rs _ | .pairLd _ _ rs _ => [rs]
  | .pairSt _ rd rs _ => [rs, rd]
  | .pairFpRR fn _ rs rs2 => if 13 ≤ fn.toNat then [rs] else [rs, rs2]
  | _ => []

/-- Scalar registers that a slot writes (R164). -/
def Instr.slotWrites : Instr → List Reg
  | .pairScalarRR _ rd _ _ | .pairAddi rd _ _ | .pairAndi rd _ _ | .pairOri rd _ _ | .pairXori rd _ _
  | .pairShli rd _ _ | .pairShri rd _ _ | .pairSari rd _ _ | .pairSlti rd _ _ | .pairLi rd _ | .pairLd _ rd _ _
  | .pairFpRR _ rd _ _ => [rd]
  | _ => []

/-- R164: a slot that is a memory operation. -/
def Instr.slotMem : Instr → Bool
  | .pairLd .. | .pairSt .. => true
  | _ => false

/-- R164: a slot that is a vector operation. -/
def Instr.slotVec : Instr → Bool
  | .pairVectorRR .. => true
  | _ => false

/-- How many registers of `rs` lie in bank `b` (R164); s0 does not count. -/
def bankCount (rs : List Reg) (b : Nat) : Nat := (rs.filter fun r => r != 0 && r.toNat % 4 == b).length

/-- The pairing rules of R164. -/
def pairOk (a b : Instr) : Bool :=
  [0, 1, 2, 3].all (fun k => bankCount (a.slotReads ++ b.slotReads) k ≤ 2)
    && [0, 1, 2, 3].all (fun k => bankCount (a.slotWrites ++ b.slotWrites) k ≤ 1)
    && !(a.slotMem && b.slotMem) && !(a.slotVec && b.slotVec)
    && !(a.variableLatency && b.variableLatency)

/-- R187: the body holds slot forms in a pair and no slot form elsewhere; a tag is allocated only with a
variable-latency producer (R168); HINT = 11 is reserved (R165). -/
def IWord.wellFormed (w : IWord) : Bool :=
  w.ctl.hint != 3 &&
  match w.body with
  | .full i => !i.isSlot && i.wellFormed && (w.ctl.sa == 0 || i.variableLatency)
  | .pair a b => a.isSlot && b.isSlot && a.wellFormed && b.wellFormed
      && (w.ctl.sa == 0 || a.variableLatency || b.variableLatency) && pairOk a b

end Sys2Proof
end

