-- ==== Sys2Proof/Machine/Bits.lean ====
section
/-! DEFINITION. Bit fields, sign extension, byte order and element addressing, used by every meaning. -/

namespace Sys2Proof.Machine

/-- Bits `lo + len - 1` to `lo` of `x`, as a number. -/
def bits {w : Nat} (x : BitVec w) (lo len : Nat) : Nat := (x.extractLsb' lo len).toNat

/-- `x` with bits `lo + len - 1` to `lo` replaced by the low bits of `val`. -/
def setBits {w : Nat} (x : BitVec w) (lo len val : Nat) : BitVec w :=
  (x &&& ~~~((BitVec.allOnes len).setWidth w <<< lo)) ||| ((BitVec.ofNat len val).setWidth w <<< lo)

/-- The low `n` bits of `x`, as a number. -/
def low (x n : Nat) : Nat := x % 2 ^ n

/-- The low `n` bits of `x` read as two's complement. -/
def toSigned (n x : Nat) : Int :=
  let y := x % 2 ^ n
  if 2 * y < 2 ^ n then (y : Int) else (y : Int) - 2 ^ n

/-- An integer as `n` two's-complement bits. -/
def ofSigned (n : Nat) (x : Int) : Nat := (x % (2 ^ n : Nat)).toNat

/-- The low `n` bits of `x`, sign-extended to a word. -/
def sextWord (n : Nat) (x : Nat) : Word := BitVec.ofInt 64 (toSigned n x)

/-- `x` clamped to `lo .. hi`. -/
def clampInt (lo hi x : Int) : Int := if x < lo then lo else if hi < x then hi else x

/-- ⌈a / b⌉. -/
def ceilDiv (a b : Nat) : Nat := (a + b - 1) / b

/-- The number of trailing zero bits among the low `n` bits of `x`; `n` if there is no one bit. -/
def trailingZeros (x : Nat) : Nat → Nat
  | 0 => 0
  | n + 1 => if x % 2 = 1 then 0 else 1 + trailingZeros (x / 2) n

/-- The number of one bits among the low `n` bits of `x`. -/
def popCount (x : Nat) : Nat → Nat
  | 0 => 0
  | n + 1 => x % 2 + popCount (x / 2) n

/-- The position of the highest one bit of a number below 2^(2^k), by halving the range; 0 for 0. -/
def topBit (x : Nat) : Nat → Nat
  | 0 => 0
  | k + 1 => if 2 ^ 2 ^ k ≤ x then 2 ^ k + topBit (x / 2 ^ 2 ^ k) k else topBit x k

/-- ⌊log2 x⌋ of a number below 2^16384. -/
def ilog2 (x : Nat) : Nat := topBit x 14

/-- The number of leading zero bits of an `n`-bit number. -/
def leadingZeros (n x : Nat) : Nat := if x = 0 then n else n - 1 - ilog2 x

/-- Bytes `off` to `off + n - 1` of a line, little-endian (R9). -/
def lineGet (d : LineVal) (off n : Nat) : Nat := ((d >>> (8 * off)).toNat) % 2 ^ (8 * n)

/-- The mask of `n` bytes from `off`. -/
def byteSpan (off n : Nat) : ByteMask := BitVec.ofNat 128 ((2 ^ n - 1) * 2 ^ off)

/-- Every byte of a line. -/
def fullMask : ByteMask := BitVec.allOnes 128

/-- A byte mask widened to the bits of its bytes. -/
def widen (m : ByteMask) : LineVal :=
  (List.range 128).foldl (fun acc k => if m.getLsbD k then acc ||| (0xFF#1024 <<< (8 * k)) else acc) 0

/-- The bytes of `new` under the mask, the bytes of `old` elsewhere (R41). -/
def mergeLine (old new : LineVal) (m : ByteMask) : LineVal :=
  if m = fullMask then new else
    let w := widen m
    (old &&& ~~~w) ||| (new &&& w)

/-- `d` with `n` bytes from `off` replaced by the low bytes of `x`. -/
def linePut (d : LineVal) (off n x : Nat) : LineVal := setBits d (8 * off) (8 * n) x

/-- The bytes of a number, low byte first (R9). -/
def toBytes (n x : Nat) : List Byte := (List.range n).map fun k => BitVec.ofNat 8 (x / 2 ^ (8 * k))

/-- A number from its bytes, low byte first (R9). -/
def ofBytes : List Byte → Nat
  | [] => 0
  | b :: r => b.toNat + 256 * ofBytes r

/-- The bits of element `i` at width `w` of a vector register for a grant of `l` lanes: lane `i mod l`, slot `i div l`
of the lane's 512 bits (R142, R150). -/
def elemPos (l w i : Nat) : Nat := 512 * (i % l) + w * (i / l)

/-- Element `i` at width `w` (R142). -/
def elemGet (l w : Nat) (x : BitVec 16384) (i : Nat) : Nat := if l = 0 then 0 else bits x (elemPos l w i) w

/-- `x` with element `i` at width `w` replaced (R142). -/
def elemSet (l w : Nat) (x : BitVec 16384) (i val : Nat) : BitVec 16384 :=
  if l = 0 then x else setBits x (elemPos l w i) w val

end Sys2Proof.Machine
end

