-- ==== Sys2Proof/Config.lean ====
section
/-! DEFINITION. What the specification leaves open: free values and free choices, as constants with no body, and the
few fixed sizes that the model reads from the specification. Every constant here is named in a row of the assumption
log; nothing in Lean can evaluate one or prove a value of it. -/

namespace Sys2Proof.Config

/-- A free bit of the step numbered `n`, use `k`: which of two allowed outcomes is taken (R167, R172, R22, R54, R59).
No value of it can be proved (log 3). -/
opaque choice : Nat → Nat → Bool

/-- A free number of the step numbered `n`, use `k`, for a choice among several allowed outcomes (placement among equal
harts, arrival order of partials, R145, R329) (log 3). -/
opaque pick : Nat → Nat → Nat

/-- A free 64-bit value of the step numbered `n`, use `k`: a word that an agent outside the module supplies (a read of
a root port, log 3). -/
opaque word : Nat → Nat → BitVec 64

/-- The clocks beyond one that the step numbered `n` takes (R360 `ctl.time`, R395) (log 8). -/
opaque stepCk : Nat → Nat

/-- What a line reads as under another key than the one it was written under: the stored tags (slot, generation), the
reading tags, the line and its plaintext under the old key (R72) (log 9). -/
opaque otherKey : Nat × Nat → Nat × Nat → Nat → BitVec 1024 → BitVec 1024

/-- Where the frame owner table begins in the system reserve of the capacity tier, in bytes (R37) (log 93). -/
opaque tableAt : Nat

/-- A Terette Link port leads to a remote module: the wiring is the installation's (R387, R388) (log 29). -/
opaque reaches : Nat → Nat → Bool

/-- The security version of a firmware image, whether its signature verifies, and whether it asks for a fuse raise (R390,
R391) (log 30). -/
opaque fwVersion : Nat → Nat

/-- The signature of a firmware image verifies (R390) (log 30). -/
opaque fwValid : Nat → Bool

/-- A firmware image asks for a fuse raise (R391) (log 30). -/
opaque fwRaises : Nat → Bool

/-- A measurement: of the ROM (kind 0), a firmware image (1) or its configuration (2) (R389, R392) (log 30). -/
opaque measure : Nat → Nat → Nat

/-- The signature of the management controller's identity key over a message (R392) (log 30). -/
opaque sign : List Nat → Nat

end Sys2Proof.Config
end

