-- ==== Sys2Proof/Decode.lean ====
section
/-! DEFINITION. The decoder and the encoder of the 80-bit word, from the opcode map (R159-R190). The decoder reads the
candidate instruction that the opcode and function fields name, and accepts it only if it is well formed and its
encoding is the word itself, so that every bit the layouts require to be zero is checked (R161, R162, R183, R190).
After it stands the encoder. -/

namespace Sys2Proof

/-- What a word decodes to: an instruction word, or an illegal encoding with the source, kind and slot of R173, R189. -/
inductive Decoded where
  | ok (w : IWord)
  | illegal (source kind slot : Nat)
  deriving DecidableEq, Repr

/-! ### Codes of the enumerated fields -/

/-- RM (R162). -/
def Rm.code : Rm → BitVec 3
  | .rne => 0 | .rtz => 1 | .rup => 2 | .rdn => 3 | .rmm => 4 | .dyn => 7

/-- RM codes 101 and 110 are reserved (R162). -/
def Rm.ofCode (c : BitVec 3) : Option Rm :=
  match c.toNat with
  | 0 => some .rne | 1 => some .rtz | 2 => some .rup | 3 => some .rdn | 4 => some .rmm | 7 => some .dyn
  | _ => none

/-- ORD (R162). -/
def MemOrd.code : MemOrd → BitVec 2
  | .plain => 0 | .acq => 1 | .rel => 2 | .ar => 3

/-- Every ORD code is assigned (R162). -/
def MemOrd.ofCode (c : BitVec 2) : MemOrd :=
  match c.toNat with
  | 0 => .plain | 1 => .acq | 2 => .rel | _ => .ar

/-- Scope codes (R102). -/
def Scope.code : Scope → BitVec 3
  | .h => 0 | .c => 1 | .d => 2 | .v => 3 | .s => 4

/-- Scope codes 5 to 7 are reserved (R102). -/
def Scope.ofCode (c : BitVec 3) : Option Scope :=
  match c.toNat with
  | 0 => some .h | 1 => some .c | 2 => some .d | 3 => some .v | 4 => some .s
  | _ => none

/-- Type codes (R184). -/
def Ty.code : Ty → BitVec 5
  | .i2 => 0 | .i4 => 1 | .i8 => 2 | .i16 => 3 | .i32 => 4 | .i64 => 5 | .n8 => 6 | .n16 => 7 | .n32 => 8
  | .f16 => 12 | .bf16 => 13 | .f32 => 14
  | .e4m3 => 16 | .e5m2 => 17 | .e3m2 => 18 | .e2m3 => 19 | .e2m1 => 20 | .e8m0 => 21

/-- Type codes 9 to 11, 15 and 22 to 31 are reserved (R184). -/
def Ty.ofCode (c : BitVec 5) : Option Ty :=
  match c.toNat with
  | 0 => some .i2 | 1 => some .i4 | 2 => some .i8 | 3 => some .i16 | 4 => some .i32 | 5 => some .i64
  | 6 => some .n8 | 7 => some .n16 | 8 => some .n32 | 12 => some .f16 | 13 => some .bf16 | 14 => some .f32
  | 16 => some .e4m3 | 17 => some .e5m2 | 18 => some .e3m2 | 19 => some .e2m3 | 20 => some .e2m1
  | 21 => some .e8m0
  | _ => none

/-- Conditions in SUB (R185). -/
def Cc.code : Cc → BitVec 4
  | .eq => 0 | .ne => 1 | .lt => 2 | .le => 3 | .gt => 4 | .ge => 5 | .uo => 6

/-- SUB 7 and above name no condition (R185). -/
def Cc.ofCode (c : BitVec 4) : Option Cc :=
  match c.toNat with
  | 0 => some .eq | 1 => some .ne | 2 => some .lt | 3 => some .le | 4 => some .gt | 5 => some .ge | 6 => some .uo
  | _ => none

/-- Scan operations in SUB (R185). -/
def ScanOp.code : ScanOp → BitVec 4
  | .add => 0 | .min => 1 | .max => 2 | .fadd => 3

/-- SUB 4 and above name no scan (R185). -/
def ScanOp.ofCode (c : BitVec 4) : Option ScanOp :=
  match c.toNat with
  | 0 => some .add | 1 => some .min | 2 => some .max | 3 => some .fadd
  | _ => none

/-- Load sizes in FN (R186). -/
def LdSize.code : LdSize → BitVec 4
  | .b => 0 | .h => 1 | .w => 2 | .d => 3 | .bu => 4 | .hu => 5 | .wu => 6

/-- FN 7 and above name no load (R186). -/
def LdSize.ofCode (n : Nat) : Option LdSize :=
  match n with
  | 0 => some .b | 1 => some .h | 2 => some .w | 3 => some .d | 4 => some .bu | 5 => some .hu | 6 => some .wu
  | _ => none

/-- Store sizes in FN (R186). -/
def StSize.code : StSize → BitVec 4
  | .b => 0 | .h => 1 | .w => 2 | .d => 3

/-- FN 4 and above name no store (R186). -/
def StSize.ofCode (n : Nat) : Option StSize :=
  match n with
  | 0 => some .b | 1 => some .h | 2 => some .w | 3 => some .d
  | _ => none

/-- Width codes in FN (R186). -/
def EWidth.code : EWidth → BitVec 3
  | .x2 => 0 | .x4 => 1 | .b => 2 | .h => 3 | .w => 4 | .d => 5

/-- Width codes 6 and above are unassigned (R186). -/
def EWidth.ofCode (n : Nat) : Option EWidth :=
  match n with
  | 0 => some .x2 | 1 => some .x4 | 2 => some .b | 3 => some .h | 4 => some .w | 5 => some .d
  | _ => none

/-! ### Layouts -/

/-- A form-F body (R161). -/
def packF (op : BitVec 8) (rd rs1 rs2 : Reg) (tail : BitVec 36) : BitVec 64 :=
  (0#2 ++ op ++ rd ++ rs1 ++ rs2 ++ tail : BitVec 64)

/-- The TI tail (R162). -/
def packTI (fn : BitVec 4) (imm : BitVec 32) : BitVec 36 := (fn ++ imm : BitVec 36)

/-- The TR tail (R162). -/
def packTR (rs3 : Reg) (vm : BitVec 4) (rm : BitVec 3) (mp tp : Bool) (fn : BitVec 21) : BitVec 36 :=
  (rs3 ++ vm ++ rm ++ BitVec.ofBool mp ++ BitVec.ofBool tp ++ fn : BitVec 36)

/-- FN of the element groups (R184). -/
def packFn (vop : BitVec 6) (ty ty2 : BitVec 5) (s : Bool) (sub : BitVec 4) : BitVec 21 :=
  (vop ++ ty ++ ty2 ++ BitVec.ofBool s ++ sub : BitVec 21)

/-- The TM tail (R162). -/
def packTM (fn : BitVec 4) (ord : MemOrd) (sc : Scope) (vm : BitVec 4) (disp : BitVec 23) : BitVec 36 :=
  (fn ++ ord.code ++ sc.code ++ vm ++ disp : BitVec 36)

/-- A scalar TR-tail body: no mask, no policy (R182). -/
def encS (op : BitVec 8) (rd rs1 rs2 rs3 : Reg) (rm : Rm) (fn : BitVec 21) : BitVec 64 :=
  packF op rd rs1 rs2 (packTR rs3 0 rm.code false false fn)

/-- A TI-tail body. -/
def encI (op : BitVec 8) (rd rs1 rs2 : Reg) (fn : BitVec 4) (imm : BitVec 32) : BitVec 64 :=
  packF op rd rs1 rs2 (packTI fn imm)

/-- An element body (R184). -/
def encV (op : BitVec 8) (vop : BitVec 6) (sub : BitVec 4) (f : TR) : BitVec 64 :=
  packF op f.rd f.rs1 f.rs2 (packTR f.rs3 f.vm f.rm.code f.mp f.tp (packFn vop f.ty.code f.ty2.code f.s sub))

/-- A vector memory body (R257). -/
def encM (op : BitVec 8) (f : VMem) : BitVec 64 :=
  packF op f.rd f.rs1 f.rs2 (packTM (0#1 ++ f.w.code : BitVec 4) f.ord f.sc f.vm f.disp)

/-- An `amo` body (R261). -/
def encA (fn : BitVec 4) (f : Amo) : BitVec 64 :=
  packF (if f.dbl then 0x51 else 0x50) f.rd f.rs1 f.rs2 (packTM fn f.ord f.sc 0 f.disp)

/-- A slot of form P (R163). -/
def packSlot (op : BitVec 7) (rd rs : Reg) (low : BitVec 12) : BitVec 31 :=
  (op ++ rd ++ rs ++ low : BitVec 31)

/-- The low 12 bits of an RR slot (R163). -/
def packRR (rs2 fn : Reg) : BitVec 12 := (rs2 ++ fn : BitVec 12)


/-! ### Candidates: the instruction that an opcode and a function value name -/

/-- Opcode 0x00 (R182). -/
def rawScalar (rd rs1 rs2 rs3 : Reg) (fn : Nat) : Option Instr :=
  match fn with
  | 0 => some (.add rd rs1 rs2)
  | 1 => some (.sub rd rs1 rs2)
  | 2 => some (.mul rd rs1 rs2)
  | 3 => some (.mulh rd rs1 rs2)
  | 4 => some (.mulhu rd rs1 rs2)
  | 5 => some (.div rd rs1 rs2)
  | 6 => some (.divu rd rs1 rs2)
  | 7 => some (.rem rd rs1 rs2)
  | 8 => some (.remu rd rs1 rs2)
  | 9 => some (.and rd rs1 rs2)
  | 10 => some (.or rd rs1 rs2)
  | 11 => some (.xor rd rs1 rs2)
  | 12 => some (.shl rd rs1 rs2)
  | 13 => some (.shr rd rs1 rs2)
  | 14 => some (.sar rd rs1 rs2)
  | 15 => some (.slt rd rs1 rs2)
  | 16 => some (.sltu rd rs1 rs2)
  | 17 => some (.min rd rs1 rs2)
  | 18 => some (.max rd rs1 rs2)
  | 19 => some (.minu rd rs1 rs2)
  | 20 => some (.maxu rd rs1 rs2)
  | 21 => some (.clz rd rs1)
  | 22 => some (.ctz rd rs1)
  | 23 => some (.popc rd rs1)
  | 24 => some (.mov rd rs1)
  | 25 => some (.sel rd rs1 rs2 rs3)
  | _ => none

/-- Opcode 0x04 (R182, R215). -/
def rawImm (rd rs1 : Reg) (imm : BitVec 32) (fn : Nat) : Option Instr :=
  match fn with
  | 0 => some (.addi rd rs1 imm)
  | 1 => some (.andi rd rs1 imm)
  | 2 => some (.ori rd rs1 imm)
  | 3 => some (.xori rd rs1 imm)
  | 4 => some (.shli rd rs1 (imm.extractLsb' 0 6))
  | 5 => some (.shri rd rs1 (imm.extractLsb' 0 6))
  | 6 => some (.sari rd rs1 (imm.extractLsb' 0 6))
  | 7 => some (.slti rd rs1 imm)
  | 8 => some (.sext rd rs1 (imm.extractLsb' 0 7))
  | 9 => some (.zext rd rs1 (imm.extractLsb' 0 7))
  | 10 => some (.bfx rd rs1 (imm.extractLsb' 0 6) (imm.extractLsb' 6 7))
  | 11 => some (.bfi rd rs1 (imm.extractLsb' 0 6) (imm.extractLsb' 6 7))
  | 12 => some (.li rd imm)
  | 13 => some (.liHi rd imm)
  | _ => none

/-- Opcode 0x08 (R182, R217). -/
def rawFp (rd rs1 rs2 rs3 : Reg) (rm : Rm) (fn : Nat) : Option Instr :=
  match fn with
  | 0 => some (.fadd rd rs1 rs2 rm)
  | 1 => some (.fsub rd rs1 rs2 rm)
  | 2 => some (.fmul rd rs1 rs2 rm)
  | 3 => some (.fdiv rd rs1 rs2 rm)
  | 4 => some (.fsqrt rd rs1 rm)
  | 5 => some (.ffma rd rs1 rs2 rs3 rm)
  | 6 => some (.fmin rd rs1 rs2)
  | 7 => some (.fmax rd rs1 rs2)
  | 8 => some (.fcmpEq rd rs1 rs2)
  | 9 => some (.fcmpLt rd rs1 rs2)
  | 10 => some (.fcmpLe rd rs1 rs2)
  | 11 => some (.fcmpUo rd rs1 rs2)
  | 12 => some (.fclass rd rs1)
  | 13 => some (.fneg rd rs1)
  | 14 => some (.fabs rd rs1)
  | 16 => some (.fcvtI32F32 rd rs1 rm)
  | 17 => some (.fcvtN32F32 rd rs1 rm)
  | 18 => some (.fcvtI64F32 rd rs1 rm)
  | 19 => some (.fcvtF32I32 rd rs1 rm)
  | 20 => some (.fcvtF32N32 rd rs1 rm)
  | 21 => some (.fcvtF32I64 rd rs1 rm)
  | _ => none

/-- Opcode 0x10 (R183, R221). -/
def rawBranch (rs1 rs2 : Reg) (imm : BitVec 32) (fn : Nat) : Option Instr :=
  match fn with
  | 0 => some (.beq rs1 rs2 imm)
  | 1 => some (.bne rs1 rs2 imm)
  | 2 => some (.blt rs1 rs2 imm)
  | 3 => some (.bge rs1 rs2 imm)
  | 4 => some (.bltu rs1 rs2 imm)
  | 5 => some (.bgeu rs1 rs2 imm)
  | _ => none

/-- Opcode 0x11 (R183, R221). -/
def rawJump (rd rs1 : Reg) (imm : BitVec 32) (fn : Nat) : Option Instr :=
  match fn with
  | 0 => some (.jmp imm)
  | 1 => some (.jal rd imm)
  | 2 => some (.ret rs1)
  | _ => none

/-- Opcode 0x12 (R183, R221). -/
def rawLoop (rs1 : Reg) (imm : BitVec 32) (fn : Nat) : Option Instr :=
  match fn with
  | 0 => some (.loop imm)
  | 1 => some (.loopInit rs1 (imm.extractLsb' 0 4))
  | 2 => some .yield
  | _ => none

/-- Opcode 0x18 (R183, R231). -/
def rawVcfg (rd rs1 : Reg) (imm : BitVec 32) (fn : Nat) : Option Instr :=
  match fn with
  | 0 => some (.setvl rd rs1 (imm.extractLsb' 0 3))
  | 1 => some (.vclaim rd (imm.extractLsb' 0 3) (imm.extractLsb' 4 3))
  | 2 => some (.vcfg rd (imm.extractLsb' 4 3) (imm.getLsbD 8) (imm.getLsbD 9))
  | _ => none

/-- Opcode 0x20 (R185). -/
def rawVInt (f : TR) (sub : BitVec 4) (vop : Nat) : Option Instr :=
  match vop with
  | 0 => some (.vadd f)
  | 1 => some (.vsub f)
  | 2 => some (.vmul f)
  | 3 => some (.vmulh f)
  | 4 => some (.vmin f)
  | 5 => some (.vmax f)
  | 6 => some (.vand f)
  | 7 => some (.vor f)
  | 8 => some (.vxor f)
  | 9 => some (.vshl f)
  | 10 => some (.vshr f)
  | 11 => some (.vsar f)
  | 12 => (Cc.ofCode sub).map fun cc => .vcmp cc f
  | 13 => some (.vsel f)
  | 14 => some (.vwadd f)
  | 15 => some (.vwmul f)
  | 16 => some (.vnarrow f)
  | 17 => some (.vdot4 f)
  | _ => none

/-- Opcode 0x24 (R185). -/
def rawVFp (f : TR) (sub : BitVec 4) (vop : Nat) : Option Instr :=
  match vop with
  | 0 => some (.vfadd f)
  | 1 => some (.vfsub f)
  | 2 => some (.vfmul f)
  | 3 => some (.vfma f)
  | 4 => some (.vfnma f)
  | 5 => some (.vfdiv f)
  | 6 => some (.vfsqrt f)
  | 7 => some (.vfmin f)
  | 8 => some (.vfmax f)
  | 9 => (Cc.ofCode sub).map fun cc => .vfcmp cc f
  | 10 => some (.vfabs f)
  | 11 => some (.vfneg f)
  | 12 => some (.vfexpo f)
  | 13 => some (.vfscale f)
  | 14 => some (.vrsqrte f)
  | 15 => some (.vrcpe f)
  | 16 => some (.vexp2e f)
  | 17 => some (.vlog2e f)
  | _ => none

/-- Opcode 0x28 (R185, R202). -/
def rawCvt (f : TR) (sub : BitVec 4) (vop : Nat) : Option Instr :=
  match vop with
  | 0 => some (.vcvt f)
  | 1 => some (.vcvtSr f)
  | 2 => some (.vmxscale f)
  | 3 => some (.vmxq (sub.getLsbD 0) f)
  | 4 => some (.vmxdq f)
  | _ => none

/-- Opcode 0x2C (R185). -/
def rawRed (f : TR) (sub : BitVec 4) (vop : Nat) : Option Instr :=
  match vop with
  | 0 => some (.vredsum f)
  | 1 => some (.vfredsum f)
  | 2 => some (.vredmin f)
  | 3 => some (.vredmax f)
  | 4 => some (.vfredmin f)
  | 5 => some (.vfredmax f)
  | 6 => (ScanOp.ofCode sub).map fun o => .vscan o f
  | _ => none

/-- Opcode 0x30 (R185). -/
def rawPerm (f : TR) (_sub : BitVec 4) (vop : Nat) : Option Instr :=
  match vop with
  | 0 => some (.vslideup f)
  | 1 => some (.vslidedn f)
  | 2 => some (.vperm f)
  | 3 => some (.vcompress f)
  | 4 => some (.vexpand f)
  | 5 => some (.vbcast f)
  | 6 => some (.vextS f)
  | 7 => some (.vinsS f)
  | _ => none

/-- Opcode 0x34 (R185). -/
def rawMask (f : TR) (_sub : BitVec 4) (vop : Nat) : Option Instr :=
  match vop with
  | 0 => some (.mand f)
  | 1 => some (.mor f)
  | 2 => some (.mxor f)
  | 3 => some (.mnot f)
  | 4 => some (.mpopc f)
  | 5 => some (.mfirst f)
  | _ => none

/-- Opcode 0x60 (R185, R284). DEDUCED: R185 has SUB 0 for every operation that it does not list, and R284 gives `mpm` and `mext` other
values: the table of R284 holds (log 96). -/
def rawMat (f : TR) (sub : BitVec 4) (vop : Nat) : Option Instr :=
  match vop with
  | 0 => some (.mshape f)
  | 1 => some (.mzero f)
  | 2 => some (.mpm (sub.getLsbD 0) (sub.getLsbD 1) f)
  | 3 => some (.mopa f)
  | 4 => some (.mfetch f)
  | 5 => some (.mscacc f)
  | 6 => some (if sub == 1 then .mextFlags f else .mext f)
  | 7 => some (.mins f)
  | 8 => some (.mld f)
  | 9 => some (.mst f)
  | _ => none

/-- Opcode 0x44 (R183, R255). -/
def rawStream (rd rs1 rs2 : Reg) (imm : BitVec 32) (fn : Nat) : Option Instr :=
  match fn with
  | 0 => (EWidth.ofCode (imm.extractLsb' 0 3).toNat).bind fun e => (Scope.ofCode (imm.extractLsb' 4 3)).map fun sc =>
      .qset rd rs1 rs2 e (imm.getLsbD 3) sc
  | 1 => some (.qstr rd rs1)
  | 2 => some (.qlen rd rs1)
  | 3 => some (.qinfo rd rs1 (imm.extractLsb' 0 2))
  | _ => none

/-- Opcodes 0x50 and 0x51 (R186). -/
def rawAmo (f : Amo) (fn : Nat) : Option Instr :=
  match fn with
  | 0 => some (.amoAdd f)
  | 1 => some (.amoAnd f)
  | 2 => some (.amoOr f)
  | 3 => some (.amoXor f)
  | 4 => some (.amoMin f)
  | 5 => some (.amoMax f)
  | 6 => some (.amoSwap f)
  | _ => none

/-- Opcode 0x56 (R183, R264). -/
def rawMaint (rs1 rs2 : Reg) (fn : Nat) : Option Instr :=
  match fn with
  | 0 => some (.clnR rs1 rs2)
  | 1 => some (.invR rs1 rs2)
  | 2 => some (.cinvR rs1 rs2)
  | 3 => some (.discR rs1 rs2)
  | _ => none

/-- Opcode 0x58 (R183, R266). -/
def rawHist (rd rs1 rs2 : Reg) (imm : BitVec 32) (fn : Nat) : Option Instr :=
  match fn with
  | 0 => some (.happ rs1 rs2)
  | 1 => some (.hld rd rs1 rs2 (imm.extractLsb' 0 4) (imm.extractLsb' 4 8))
  | 2 => some (.hldv rd rs1 rs2 (imm.extractLsb' 0 4))
  | 3 => some (.hstat rd rs1 (imm.extractLsb' 0 2) (imm.extractLsb' 4 4))
  | _ => none

/-- Opcode 0x5C (R183, R273). -/
def rawPool (rd rs1 rs2 : Reg) (fn : Nat) : Option Instr :=
  match fn with
  | 0 => some (.kvapp rd rs1)
  | 1 => some (.poolPop rd rs1)
  | 2 => some (.poolPush rs1 rs2)
  | _ => none

/-- Opcode 0x68 (R183, R301). -/
def rawTile (rd rs1 rs2 : Reg) (imm : BitVec 32) (fn : Nat) : Option Instr :=
  match fn with
  | 0 => some (.proof (imm.extractLsb' 0 7) (imm.extractLsb' 8 7) rs2)
  | 1 => some (.unproof (imm.extractLsb' 0 7))
  | 2 => some (.ownGive (imm.extractLsb' 0 7) (imm.extractLsb' 8 7) (imm.extractLsb' 16 2))
  | 3 => some (.ownTake (imm.extractLsb' 0 7) (imm.extractLsb' 8 7))
  | 4 => some (.ownTest rd (imm.extractLsb' 0 7))
  | 5 => some (.sld (imm.extractLsb' 0 7) (imm.extractLsb' 16 9) rs1 rs2)
  | 6 => some (.sst (imm.extractLsb' 0 7) (imm.extractLsb' 16 9) rs1 rs2)
  | 7 => some (.cpy rs1)
  | 8 => some (.enq rs1)
  | 9 => some (.enqb rd rs1 (imm.extractLsb' 0 4))
  | 10 => some .nodeDone
  | 11 => some (.rallyRun (imm.extractLsb' 0 7))
  | 12 => some (.rallyStat rd (imm.extractLsb' 0 7))
  | _ => none

/-- Opcode 0x70 (R183, R324). -/
def rawBank (rd rs1 rs2 : Reg) (imm : BitVec 32) (fn : Nat) : Option Instr :=
  match fn with
  | 0 => some (.bcmd rs1)
  | 1 => some (.bgath rd rs1 rs2 (imm.extractLsb' 8 4) (imm.extractLsb' 0 4))
  | 2 => some (.bscadd rd rs1 rs2 (imm.extractLsb' 8 4) (imm.extractLsb' 0 4))
  | _ => none

/-- Opcode 0xE8 (R149). -/
def rawBar (rd rs1 : Reg) (imm : BitVec 32) (fn : Nat) : Option Instr :=
  match fn with
  | 0 => some (.barArr rd (imm.extractLsb' 0 3))
  | 1 => some (.barWait rs1 (imm.extractLsb' 0 3))
  | 2 => some (.barSync (imm.extractLsb' 0 3))
  | 3 => some (.wfe rd rs1)
  | _ => none

/-- Opcode 0xF0 (R183, R365). -/
def rawSys (rd rs1 rs2 : Reg) (imm : BitVec 32) (fn : Nat) : Option Instr :=
  match fn with
  | 0 => some (.trap imm)
  | 1 => some .eret
  | 2 => some (.svc imm)
  | 3 => some (.brk imm)
  | 4 => some (.ctlRd rd (imm.extractLsb' 0 5))
  | 5 => some (.ctlWr (imm.extractLsb' 0 5) rs1)
  | 6 => some (.ctlSet (imm.extractLsb' 0 5) rs1)
  | 7 => some (.ctlClr (imm.extractLsb' 0 5) rs1)
  | 8 => some (if imm.getLsbD 0 then .ctxResumeRetire rs1 else .ctxResume rs1)
  | 9 => some (.pteInv rs1 rs2 (imm.extractLsb' 0 2))
  | 10 => match (imm.extractLsb' 0 2).toNat with
      | 0 => some (.hcfgRegister rs1) | 1 => some (.hcfgRestart rs1) | 2 => some (.hcfgRetire rs1) | _ => none
  | _ => none

/-- R181: the decoding source of a major opcode; none for an unassigned one. -/
def opSource (op : BitVec 8) : Option Nat :=
  match op.toNat with
  | 0x00 | 0x04 | 0x08 | 0x10 | 0x11 | 0x12 => some 0
  | 0x18 | 0x20 | 0x24 | 0x28 | 0x2C | 0x30 | 0x34 => some 1
  | 0x40 | 0x41 => some 0
  | 0x44 | 0x48 | 0x49 | 0x4A | 0x4B | 0x4C => some 2
  | 0x50 | 0x51 | 0x52 | 0x53 | 0x54 | 0x56 => some 0
  | 0x58 => some 5
  | 0x5C => some 6
  | 0x60 => some 3
  | 0x68 => some 4
  | 0x70 => some 5
  | 0xE8 | 0xF0 => some 0
  | _ => none

/-- The TR fields of a body (R162, R184); none for a reserved rounding or type code. -/
def rawTR (b : BitVec 64) : Option TR :=
  (Rm.ofCode (b.extractLsb' 23 3)).bind fun rm => (Ty.ofCode (b.extractLsb' 10 5)).bind fun ty =>
  (Ty.ofCode (b.extractLsb' 5 5)).map fun ty2 =>
    { rd := b.extractLsb' 48 6, rs1 := b.extractLsb' 42 6, rs2 := b.extractLsb' 36 6, rs3 := b.extractLsb' 30 6,
      vm := b.extractLsb' 26 4, rm := rm, mp := b.getLsbD 22, tp := b.getLsbD 21, ty := ty, ty2 := ty2,
      s := b.getLsbD 4 }

/-- The fields of a vector memory body (R257). -/
def rawVMem (b : BitVec 64) : Option VMem :=
  (EWidth.ofCode (b.extractLsb' 32 4).toNat).bind fun e => (Scope.ofCode (b.extractLsb' 27 3)).map fun sc =>
    { rd := b.extractLsb' 48 6, rs1 := b.extractLsb' 42 6, rs2 := b.extractLsb' 36 6, w := e,
      ord := MemOrd.ofCode (b.extractLsb' 30 2), sc := sc, vm := b.extractLsb' 23 4, disp := b.extractLsb' 0 23 }

/-- The fields of an `amo` body (R261). -/
def rawAmoFields (b : BitVec 64) (dbl : Bool) : Option Amo :=
  (Scope.ofCode (b.extractLsb' 27 3)).map fun sc =>
    { rd := b.extractLsb' 48 6, rs1 := b.extractLsb' 42 6, rs2 := b.extractLsb' 36 6, dbl := dbl,
      ord := MemOrd.ofCode (b.extractLsb' 30 2), sc := sc, disp := b.extractLsb' 0 23 }

/-- The candidate of a form-F body: the instruction its opcode and function fields name (R181-R186). -/
def rawF (b : BitVec 64) : Option Instr :=
  let rd : Reg := b.extractLsb' 48 6
  let rs1 : Reg := b.extractLsb' 42 6
  let rs2 : Reg := b.extractLsb' 36 6
  let rs3 : Reg := b.extractLsb' 30 6
  let imm : BitVec 32 := b.extractLsb' 0 32
  let fn : Nat := (b.extractLsb' 32 4).toNat
  let fn21 : Nat := (b.extractLsb' 0 21).toNat
  let vop : Nat := (b.extractLsb' 15 6).toNat
  let sub : BitVec 4 := b.extractLsb' 0 4
  let ord : MemOrd := MemOrd.ofCode (b.extractLsb' 30 2)
  let disp : BitVec 23 := b.extractLsb' 0 23
  match (b.extractLsb' 54 8).toNat with
  | 0x00 => rawScalar rd rs1 rs2 rs3 fn21
  | 0x04 => rawImm rd rs1 imm fn
  | 0x08 => (Rm.ofCode (b.extractLsb' 23 3)).bind fun rm => rawFp rd rs1 rs2 rs3 rm fn21
  | 0x10 => rawBranch rs1 rs2 imm fn
  | 0x11 => rawJump rd rs1 imm fn
  | 0x12 => rawLoop rs1 imm fn
  | 0x18 => rawVcfg rd rs1 imm fn
  | 0x20 => (rawTR b).bind fun f => rawVInt f sub vop
  | 0x24 => (rawTR b).bind fun f => rawVFp f sub vop
  | 0x28 => (rawTR b).bind fun f => rawCvt f sub vop
  | 0x2C => (rawTR b).bind fun f => rawRed f sub vop
  | 0x30 => (rawTR b).bind fun f => rawPerm f sub vop
  | 0x34 => (rawTR b).bind fun f => rawMask f sub vop
  | 0x40 => (LdSize.ofCode fn).bind fun sz => (Scope.ofCode (b.extractLsb' 27 3)).map fun sc =>
      .ld rd rs1 sz ord sc disp
  | 0x41 => (StSize.ofCode fn).bind fun sz => (Scope.ofCode (b.extractLsb' 27 3)).map fun sc =>
      .st rs1 rs2 sz ord sc disp
  | 0x44 => rawStream rd rs1 rs2 imm fn
  | 0x48 => (rawVMem b).map .vld
  | 0x49 => (rawVMem b).map .vldff
  | 0x4A => (rawVMem b).map .vst
  | 0x4B => (rawVMem b).map .vldx
  | 0x4C => (rawVMem b).map .vstx
  | 0x50 => (rawAmoFields b false).bind fun f => rawAmo f fn
  | 0x51 => (rawAmoFields b true).bind fun f => rawAmo f fn
  | 0x52 => (Scope.ofCode (b.extractLsb' 27 3)).map fun sc =>
      .amocas rd rs1 rs2 (b.extractLsb' 17 6) (fn == 3) ord sc (b.extractLsb' 0 17)
  | 0x53 => (Scope.ofCode (b.extractLsb' 27 3)).map fun sc => .famoAdd rd rs1 rs2 ord sc disp
  | 0x54 => (Scope.ofCode (b.extractLsb' 27 3)).map fun sc => if fn == 1 then .fenceB else .fence sc
  | 0x56 => rawMaint rs1 rs2 fn
  | 0x58 => rawHist rd rs1 rs2 imm fn
  | 0x5C => rawPool rd rs1 rs2 fn
  | 0x60 => (rawTR b).bind fun f => rawMat f sub vop
  | 0x68 => rawTile rd rs1 rs2 imm fn
  | 0x70 => rawBank rd rs1 rs2 imm fn
  | 0xE8 => rawBar rd rs1 imm fn
  | 0xF0 => rawSys rd rs1 rs2 imm fn
  | _ => none

/-- The candidate of a slot (R187). -/
def rawSlot (b : BitVec 31) : Option Instr :=
  let rd : Reg := b.extractLsb' 18 6
  let rs : Reg := b.extractLsb' 12 6
  let imm : BitVec 12 := b.extractLsb' 0 12
  let rs2 : Reg := b.extractLsb' 6 6
  let fn : Reg := b.extractLsb' 0 6
  let op : Nat := (b.extractLsb' 24 7).toNat
  match op with
  | 0x00 => some (.pairScalarRR fn rd rs rs2)
  | 0x01 => some (.pairAddi rd rs imm)
  | 0x02 => some (.pairAndi rd rs imm)
  | 0x03 => some (.pairOri rd rs imm)
  | 0x04 => some (.pairXori rd rs imm)
  | 0x05 => some (.pairShli rd rs fn)
  | 0x06 => some (.pairShri rd rs fn)
  | 0x07 => some (.pairSari rd rs fn)
  | 0x08 => some (.pairSlti rd rs imm)
  | 0x09 => some (.pairLi rd imm)
  | 0x20 => some (.pairFpRR fn rd rs rs2)
  | 0x30 => some (.pairVectorRR fn rd rs rs2)
  | n =>
    if 0x10 ≤ n ∧ n ≤ 0x16 then (LdSize.ofCode (n - 0x10)).map fun sz => .pairLd sz rd rs imm
    else if 0x18 ≤ n ∧ n ≤ 0x1B then (StSize.ofCode (n - 0x18)).map fun sz => .pairSt sz rd rs imm
    else none

/-! ### The encoder -/

/-- The body of a form-F instruction (R161, R181-R186). A slot form or an event has no form-F body; 0 stands there. -/
def encodeBody : Instr → BitVec 64
  | .add rd rs1 rs2 => encS 0x00 rd rs1 rs2 0 .rne 0
  | .sub rd rs1 rs2 => encS 0x00 rd rs1 rs2 0 .rne 1
  | .mul rd rs1 rs2 => encS 0x00 rd rs1 rs2 0 .rne 2
  | .mulh rd rs1 rs2 => encS 0x00 rd rs1 rs2 0 .rne 3
  | .mulhu rd rs1 rs2 => encS 0x00 rd rs1 rs2 0 .rne 4
  | .div rd rs1 rs2 => encS 0x00 rd rs1 rs2 0 .rne 5
  | .divu rd rs1 rs2 => encS 0x00 rd rs1 rs2 0 .rne 6
  | .rem rd rs1 rs2 => encS 0x00 rd rs1 rs2 0 .rne 7
  | .remu rd rs1 rs2 => encS 0x00 rd rs1 rs2 0 .rne 8
  | .and rd rs1 rs2 => encS 0x00 rd rs1 rs2 0 .rne 9
  | .or rd rs1 rs2 => encS 0x00 rd rs1 rs2 0 .rne 10
  | .xor rd rs1 rs2 => encS 0x00 rd rs1 rs2 0 .rne 11
  | .shl rd rs1 rs2 => encS 0x00 rd rs1 rs2 0 .rne 12
  | .shr rd rs1 rs2 => encS 0x00 rd rs1 rs2 0 .rne 13
  | .sar rd rs1 rs2 => encS 0x00 rd rs1 rs2 0 .rne 14
  | .slt rd rs1 rs2 => encS 0x00 rd rs1 rs2 0 .rne 15
  | .sltu rd rs1 rs2 => encS 0x00 rd rs1 rs2 0 .rne 16
  | .min rd rs1 rs2 => encS 0x00 rd rs1 rs2 0 .rne 17
  | .max rd rs1 rs2 => encS 0x00 rd rs1 rs2 0 .rne 18
  | .minu rd rs1 rs2 => encS 0x00 rd rs1 rs2 0 .rne 19
  | .maxu rd rs1 rs2 => encS 0x00 rd rs1 rs2 0 .rne 20
  | .clz rd rs1 => encS 0x00 rd rs1 0 0 .rne 21
  | .ctz rd rs1 => encS 0x00 rd rs1 0 0 .rne 22
  | .popc rd rs1 => encS 0x00 rd rs1 0 0 .rne 23
  | .mov rd rs1 => encS 0x00 rd rs1 0 0 .rne 24
  | .sel rd rs1 rs2 rs3 => encS 0x00 rd rs1 rs2 rs3 .rne 25
  | .addi rd rs1 imm => encI 0x04 rd rs1 0 0 imm
  | .andi rd rs1 imm => encI 0x04 rd rs1 0 1 imm
  | .ori rd rs1 imm => encI 0x04 rd rs1 0 2 imm
  | .xori rd rs1 imm => encI 0x04 rd rs1 0 3 imm
  | .slti rd rs1 imm => encI 0x04 rd rs1 0 7 imm
  | .shli rd rs1 n => encI 0x04 rd rs1 0 4 (0#26 ++ n : BitVec 32)
  | .shri rd rs1 n => encI 0x04 rd rs1 0 5 (0#26 ++ n : BitVec 32)
  | .sari rd rs1 n => encI 0x04 rd rs1 0 6 (0#26 ++ n : BitVec 32)
  | .sext rd rs1 w => encI 0x04 rd rs1 0 8 (0#25 ++ w : BitVec 32)
  | .zext rd rs1 w => encI 0x04 rd rs1 0 9 (0#25 ++ w : BitVec 32)
  | .bfx rd rs1 pos len => encI 0x04 rd rs1 0 10 (0#19 ++ len ++ pos : BitVec 32)
  | .bfi rd rs1 pos len => encI 0x04 rd rs1 0 11 (0#19 ++ len ++ pos : BitVec 32)
  | .li rd imm => encI 0x04 rd 0 0 12 imm
  | .liHi rd imm => encI 0x04 rd 0 0 13 imm
  | .fadd rd rs1 rs2 rm => encS 0x08 rd rs1 rs2 0 rm 0
  | .fsub rd rs1 rs2 rm => encS 0x08 rd rs1 rs2 0 rm 1
  | .fmul rd rs1 rs2 rm => encS 0x08 rd rs1 rs2 0 rm 2
  | .fdiv rd rs1 rs2 rm => encS 0x08 rd rs1 rs2 0 rm 3
  | .fsqrt rd rs1 rm => encS 0x08 rd rs1 0 0 rm 4
  | .ffma rd rs1 rs2 rs3 rm => encS 0x08 rd rs1 rs2 rs3 rm 5
  | .fmin rd rs1 rs2 => encS 0x08 rd rs1 rs2 0 .rne 6
  | .fmax rd rs1 rs2 => encS 0x08 rd rs1 rs2 0 .rne 7
  | .fcmpEq rd rs1 rs2 => encS 0x08 rd rs1 rs2 0 .rne 8
  | .fcmpLt rd rs1 rs2 => encS 0x08 rd rs1 rs2 0 .rne 9
  | .fcmpLe rd rs1 rs2 => encS 0x08 rd rs1 rs2 0 .rne 10
  | .fcmpUo rd rs1 rs2 => encS 0x08 rd rs1 rs2 0 .rne 11
  | .fclass rd rs1 => encS 0x08 rd rs1 0 0 .rne 12
  | .fneg rd rs1 => encS 0x08 rd rs1 0 0 .rne 13
  | .fabs rd rs1 => encS 0x08 rd rs1 0 0 .rne 14
  | .fcvtI32F32 rd rs1 rm => encS 0x08 rd rs1 0 0 rm 16
  | .fcvtN32F32 rd rs1 rm => encS 0x08 rd rs1 0 0 rm 17
  | .fcvtI64F32 rd rs1 rm => encS 0x08 rd rs1 0 0 rm 18
  | .fcvtF32I32 rd rs1 rm => encS 0x08 rd rs1 0 0 rm 19
  | .fcvtF32N32 rd rs1 rm => encS 0x08 rd rs1 0 0 rm 20
  | .fcvtF32I64 rd rs1 rm => encS 0x08 rd rs1 0 0 rm 21
  | .beq rs1 rs2 off => encI 0x10 0 rs1 rs2 0 off
  | .bne rs1 rs2 off => encI 0x10 0 rs1 rs2 1 off
  | .blt rs1 rs2 off => encI 0x10 0 rs1 rs2 2 off
  | .bge rs1 rs2 off => encI 0x10 0 rs1 rs2 3 off
  | .bltu rs1 rs2 off => encI 0x10 0 rs1 rs2 4 off
  | .bgeu rs1 rs2 off => encI 0x10 0 rs1 rs2 5 off
  | .jmp off => encI 0x11 0 0 0 0 off
  | .jal rd off => encI 0x11 rd 0 0 1 off
  | .ret rs1 => encI 0x11 0 rs1 0 2 0
  | .loop off => encI 0x12 0 0 0 0 off
  | .loopInit rs1 n => encI 0x12 0 rs1 0 1 (0#28 ++ n : BitVec 32)
  | .yield => encI 0x12 0 0 0 2 0
  | .setvl rd rs1 sew => encI 0x18 rd rs1 0 0 (0#29 ++ sew : BitVec 32)
  | .vclaim rd req fl => encI 0x18 rd 0 0 1 (0#25 ++ fl ++ 0#1 ++ req : BitVec 32)
  | .vcfg rd gs mp tp => encI 0x18 rd 0 0 2 (0#22 ++ BitVec.ofBool tp ++ BitVec.ofBool mp ++ 0#1 ++ gs ++ 0#4 : BitVec 32)
  | .vadd f => encV 0x20 0 0 f
  | .vsub f => encV 0x20 1 0 f
  | .vmul f => encV 0x20 2 0 f
  | .vmulh f => encV 0x20 3 0 f
  | .vmin f => encV 0x20 4 0 f
  | .vmax f => encV 0x20 5 0 f
  | .vand f => encV 0x20 6 0 f
  | .vor f => encV 0x20 7 0 f
  | .vxor f => encV 0x20 8 0 f
  | .vshl f => encV 0x20 9 0 f
  | .vshr f => encV 0x20 10 0 f
  | .vsar f => encV 0x20 11 0 f
  | .vcmp cc f => encV 0x20 12 cc.code f
  | .vsel f => encV 0x20 13 0 f
  | .vwadd f => encV 0x20 14 0 f
  | .vwmul f => encV 0x20 15 0 f
  | .vnarrow f => encV 0x20 16 0 f
  | .vdot4 f => encV 0x20 17 0 f
  | .vfadd f => encV 0x24 0 0 f
  | .vfsub f => encV 0x24 1 0 f
  | .vfmul f => encV 0x24 2 0 f
  | .vfma f => encV 0x24 3 0 f
  | .vfnma f => encV 0x24 4 0 f
  | .vfdiv f => encV 0x24 5 0 f
  | .vfsqrt f => encV 0x24 6 0 f
  | .vfmin f => encV 0x24 7 0 f
  | .vfmax f => encV 0x24 8 0 f
  | .vfcmp cc f => encV 0x24 9 cc.code f
  | .vfabs f => encV 0x24 10 0 f
  | .vfneg f => encV 0x24 11 0 f
  | .vfexpo f => encV 0x24 12 0 f
  | .vfscale f => encV 0x24 13 0 f
  | .vrsqrte f => encV 0x24 14 0 f
  | .vrcpe f => encV 0x24 15 0 f
  | .vexp2e f => encV 0x24 16 0 f
  | .vlog2e f => encV 0x24 17 0 f
  | .vcvt f => encV 0x28 0 0 f
  | .vcvtSr f => encV 0x28 1 0 f
  | .vmxscale f => encV 0x28 2 0 f
  | .vmxq sr f => encV 0x28 3 (0#3 ++ BitVec.ofBool sr : BitVec 4) f
  | .vmxdq f => encV 0x28 4 0 f
  | .vredsum f => encV 0x2C 0 0 f
  | .vfredsum f => encV 0x2C 1 0 f
  | .vredmin f => encV 0x2C 2 0 f
  | .vredmax f => encV 0x2C 3 0 f
  | .vfredmin f => encV 0x2C 4 0 f
  | .vfredmax f => encV 0x2C 5 0 f
  | .vscan o f => encV 0x2C 6 o.code f
  | .vslideup f => encV 0x30 0 0 f
  | .vslidedn f => encV 0x30 1 0 f
  | .vperm f => encV 0x30 2 0 f
  | .vcompress f => encV 0x30 3 0 f
  | .vexpand f => encV 0x30 4 0 f
  | .vbcast f => encV 0x30 5 0 f
  | .vextS f => encV 0x30 6 0 f
  | .vinsS f => encV 0x30 7 0 f
  | .mand f => encV 0x34 0 0 f
  | .mor f => encV 0x34 1 0 f
  | .mxor f => encV 0x34 2 0 f
  | .mnot f => encV 0x34 3 0 f
  | .mpopc f => encV 0x34 4 0 f
  | .mfirst f => encV 0x34 5 0 f
  | .mshape f => encV 0x60 0 0 f
  | .mzero f => encV 0x60 1 0 f
  | .mpm blk fet f => encV 0x60 2 (0#2 ++ BitVec.ofBool fet ++ BitVec.ofBool blk : BitVec 4) f
  | .mopa f => encV 0x60 3 0 f
  | .mfetch f => encV 0x60 4 0 f
  | .mscacc f => encV 0x60 5 0 f
  | .mext f => encV 0x60 6 0 f
  | .mextFlags f => encV 0x60 6 1 f
  | .mins f => encV 0x60 7 0 f
  | .mld f => encV 0x60 8 0 f
  | .mst f => encV 0x60 9 0 f
  | .ld rd rs1 sz ord sc disp => packF 0x40 rd rs1 0 (packTM sz.code ord sc 0 disp)
  | .st rs1 rs2 sz ord sc disp => packF 0x41 0 rs1 rs2 (packTM sz.code ord sc 0 disp)
  | .qset qd rs1 rs2 esz chain sc => encI 0x44 qd rs1 rs2 0 (0#25 ++ sc.code ++ BitVec.ofBool chain ++ esz.code : BitVec 32)
  | .qstr qd rs1 => encI 0x44 qd rs1 0 1 0
  | .qlen rd qs => encI 0x44 rd qs 0 2 0
  | .qinfo rd qs k => encI 0x44 rd qs 0 3 (0#30 ++ k : BitVec 32)
  | .vld f => encM 0x48 f
  | .vldff f => encM 0x49 f
  | .vst f => encM 0x4A f
  | .vldx f => encM 0x4B f
  | .vstx f => encM 0x4C f
  | .amoAdd f => encA 0 f
  | .amoAnd f => encA 1 f
  | .amoOr f => encA 2 f
  | .amoXor f => encA 3 f
  | .amoMin f => encA 4 f
  | .amoMax f => encA 5 f
  | .amoSwap f => encA 6 f
  | .amocas rd rs1 rs2 rs3 dbl ord sc disp => packF 0x52 rd rs1 rs2 (packTM (if dbl then 3 else 2) ord sc 0 (rs3 ++ disp : BitVec 23))
  | .famoAdd rd rs1 rs2 ord sc disp => packF 0x53 rd rs1 rs2 (packTM 2 ord sc 0 disp)
  | .fence sc => packF 0x54 0 0 0 (packTM 0 .plain sc 0 0)
  | .fenceB => packF 0x54 0 0 0 (packTM 1 .plain .h 0 0)
  | .clnR rs1 rs2 => encI 0x56 0 rs1 rs2 0 0
  | .invR rs1 rs2 => encI 0x56 0 rs1 rs2 1 0
  | .cinvR rs1 rs2 => encI 0x56 0 rs1 rs2 2 0
  | .discR rs1 rs2 => encI 0x56 0 rs1 rs2 3 0
  | .happ rs1 rs2 => encI 0x58 0 rs1 rs2 0 0
  | .hld rd rs1 rs2 res e => encI 0x58 rd rs1 rs2 1 (0#20 ++ e ++ res : BitVec 32)
  | .hldv rd rs1 rs2 res => encI 0x58 rd rs1 rs2 2 (0#28 ++ res : BitVec 32)
  | .hstat rd rs1 k lev => encI 0x58 rd rs1 0 3 (0#24 ++ lev ++ 0#2 ++ k : BitVec 32)
  | .kvapp rd rs1 => encI 0x5C rd rs1 0 0 0
  | .poolPop rd rs1 => encI 0x5C rd rs1 0 1 0
  | .poolPush rs1 rs2 => encI 0x5C 0 rs1 rs2 2 0
  | .proof n k1 rs2 => encI 0x68 0 0 rs2 0 (0#17 ++ k1 ++ 0#1 ++ n : BitVec 32)
  | .unproof n => encI 0x68 0 0 0 1 (0#25 ++ n : BitVec 32)
  | .ownGive n k1 dest => encI 0x68 0 0 0 2 (0#14 ++ dest ++ 0#1 ++ k1 ++ 0#1 ++ n : BitVec 32)
  | .ownTake n k1 => encI 0x68 0 0 0 3 (0#17 ++ k1 ++ 0#1 ++ n : BitVec 32)
  | .ownTest rd n => encI 0x68 rd 0 0 4 (0#25 ++ n : BitVec 32)
  | .sld n off rs1 rs2 => encI 0x68 0 rs1 rs2 5 (0#7 ++ off ++ 0#9 ++ n : BitVec 32)
  | .sst n off rs1 rs2 => encI 0x68 0 rs1 rs2 6 (0#7 ++ off ++ 0#9 ++ n : BitVec 32)
  | .cpy rs1 => encI 0x68 0 rs1 0 7 0
  | .enq rs1 => encI 0x68 0 rs1 0 8 0
  | .enqb rd rs1 mk => encI 0x68 rd rs1 0 9 (0#28 ++ mk : BitVec 32)
  | .nodeDone => encI 0x68 0 0 0 10 0
  | .rallyRun n => encI 0x68 0 0 0 11 (0#25 ++ n : BitVec 32)
  | .rallyStat rd n => encI 0x68 rd 0 0 12 (0#25 ++ n : BitVec 32)
  | .bcmd rs1 => encI 0x70 0 rs1 0 0 0
  | .bgath rd rs1 rs2 mk ef => encI 0x70 rd rs1 rs2 1 (0#20 ++ mk ++ 0#4 ++ ef : BitVec 32)
  | .bscadd rd rs1 rs2 mk ef => encI 0x70 rd rs1 rs2 2 (0#20 ++ mk ++ 0#4 ++ ef : BitVec 32)
  | .barArr rd lvl => encI 0xE8 rd 0 0 0 (0#29 ++ lvl : BitVec 32)
  | .barWait rs1 lvl => encI 0xE8 0 rs1 0 1 (0#29 ++ lvl : BitVec 32)
  | .barSync lvl => encI 0xE8 0 0 0 2 (0#29 ++ lvl : BitVec 32)
  | .wfe rd rs1 => encI 0xE8 rd rs1 0 3 0
  | .trap code => encI 0xF0 0 0 0 0 code
  | .eret => encI 0xF0 0 0 0 1 0
  | .svc code => encI 0xF0 0 0 0 2 code
  | .brk code => encI 0xF0 0 0 0 3 code
  | .ctlRd rd num => encI 0xF0 rd 0 0 4 (0#27 ++ num : BitVec 32)
  | .ctlWr num rs1 => encI 0xF0 0 rs1 0 5 (0#27 ++ num : BitVec 32)
  | .ctlSet num rs1 => encI 0xF0 0 rs1 0 6 (0#27 ++ num : BitVec 32)
  | .ctlClr num rs1 => encI 0xF0 0 rs1 0 7 (0#27 ++ num : BitVec 32)
  | .ctxResume rs1 => encI 0xF0 0 rs1 0 8 0
  | .ctxResumeRetire rs1 => encI 0xF0 0 rs1 0 8 1
  | .pteInv rs1 rs2 sc => encI 0xF0 0 rs1 rs2 9 (0#30 ++ sc : BitVec 32)
  | .hcfgRegister rs1 => encI 0xF0 0 rs1 0 10 0
  | .hcfgRestart rs1 => encI 0xF0 0 rs1 0 10 1
  | .hcfgRetire rs1 => encI 0xF0 0 rs1 0 10 2
  | _ => 0

/-- The slot of form P that holds an instruction (R163, R187); 0 for every other instruction. -/
def encodeSlot : Instr → BitVec 31
  | .pairScalarRR fn rd rs rs2 => packSlot 0x00 rd rs (packRR rs2 fn)
  | .pairAddi rd rs imm => packSlot 1 rd rs imm
  | .pairAndi rd rs imm => packSlot 2 rd rs imm
  | .pairOri rd rs imm => packSlot 3 rd rs imm
  | .pairXori rd rs imm => packSlot 4 rd rs imm
  | .pairShli rd rs n => packSlot 5 rd rs (0#6 ++ n : BitVec 12)
  | .pairShri rd rs n => packSlot 6 rd rs (0#6 ++ n : BitVec 12)
  | .pairSari rd rs n => packSlot 7 rd rs (0#6 ++ n : BitVec 12)
  | .pairSlti rd rs imm => packSlot 8 rd rs imm
  | .pairLi rd imm => packSlot 9 rd 0 imm
  | .pairLd sz rd rs imm => packSlot (0x10 + (0#3 ++ sz.code : BitVec 7)) rd rs imm
  | .pairSt sz rd rs imm => packSlot (0x18 + (0#3 ++ sz.code : BitVec 7)) rd rs imm
  | .pairFpRR fn rd rs rs2 => packSlot 0x20 rd rs (packRR rs2 fn)
  | .pairVectorRR fn rd rs rs2 => packSlot 0x30 rd rs (packRR rs2 fn)
  | _ => 0

/-- The control field (R165). -/
def encodeCtl (c : Ctl) : BitVec 16 :=
  (BitVec.ofBool c.cb ++ c.pd ++ c.sa ++ c.sw ++ c.hint : BitVec 16)

/-- The control field read back (R165). -/
def decodeCtl (c : BitVec 16) : Ctl :=
  { cb := c.getLsbD 15, pd := c.extractLsb' 12 3, sa := c.extractLsb' 9 3, sw := c.extractLsb' 2 7,
    hint := c.extractLsb' 0 2 }

/-- The body of a word (R160). -/
def Body.encode : Body → BitVec 64
  | .full i => encodeBody i
  | .pair a b => (1#2 ++ encodeSlot a ++ encodeSlot b : BitVec 64)

/-- The 80-bit word, body in the low bits (R159). -/
def encode (w : IWord) : BitVec 80 := (encodeCtl w.ctl ++ w.body.encode : BitVec 80)

/-! ### The decoder -/

/-- The checks of R161, R162 and R182 to R187 on a candidate; a repair of the decoder may change which terms it admits. -/
def admits (i : Instr) : Bool := i.wellFormed

/-- The instruction of a form-F body, or none where a field breaks R161, R162 or R182 to R186. -/
def decodeF (b : BitVec 64) : Option Instr :=
  (rawF b).bind fun i => if admits i && encodeBody i == b then some i else none

/-- The instruction of a slot, or none where it breaks R187. -/
def decodeSlot (b : BitVec 31) : Option Instr :=
  (rawSlot b).bind fun i => if admits i && encodeSlot i == b then some i else none

/-- A word in form F, checked in the order of R189. -/
def decodeFull (b : BitVec 64) (c : Ctl) : Decoded :=
  match opSource (b.extractLsb' 54 8) with
  | none => .illegal 0 0 0
  | some src =>
    match decodeF b with
    | none => .illegal src 0 0
    | some i => if c.sa != 0 && !i.variableLatency then .illegal 0 0 0 else .ok { ctl := c, body := .full i }

/-- A word in form P, checked in the order of R189; slot 1 is named only when slot B alone fails. -/
def decodePair (b : BitVec 64) (c : Ctl) : Decoded :=
  match decodeSlot (b.extractLsb' 31 31), decodeSlot (b.extractLsb' 0 31) with
  | none, _ => .illegal 0 0 0
  | some _, none => .illegal 0 0 1
  | some x, some y =>
    if c.sa != 0 && !x.variableLatency && !y.variableLatency then .illegal 0 0 0
    else if pairOk x y then .ok { ctl := c, body := .pair x y } else .illegal 0 1 0

/-- R189 up to pairing: the form, HINT, then the form's own checks. The privilege and convoy checks need the context
and are made by the step. -/
def decode (w : BitVec 80) : Decoded :=
  let b : BitVec 64 := w.extractLsb' 0 64
  let c : BitVec 16 := w.extractLsb' 64 16
  if b.getLsbD 63 then .illegal 0 0 0
  else if c.extractLsb' 0 2 == 3 then .illegal 0 0 0
  else if b.getLsbD 62 then decodePair b (decodeCtl c) else decodeFull b (decodeCtl c)

/-- The ten bytes of a word, lowest address first (R159). -/
def wordBytes (w : BitVec 80) : List Byte := (List.range 10).map fun k => w.extractLsb' (8 * k) 8

/-- A word from its ten bytes, lowest address first (R159). -/
def wordOfBytes (bs : List Byte) : BitVec 80 :=
  bs.foldr (fun b acc => (acc <<< 8) ||| b.setWidth 80) 0

/-- The decoder on the numbering of spec/opcode_table.json: bit 0 is the low bit of byte 0, and bits above `nbits` are
zero. For a pair the instruction of slot A is answered. -/
def decodeTableWord (nbits w : Nat) : Option Instr :=
  match decode (wordOfBytes (wordBytes (BitVec.ofNat 80 (w % 2 ^ nbits)))) with
  | .ok { ctl := _, body := .full i } => some i
  | .ok { ctl := _, body := .pair a _ } => some a
  | .illegal .. => none

end Sys2Proof
end

