-- ==== Sys2Proof/Machine/State.lean ====
section
/-! DEFINITION. The state of the module: every context, the graph engine, the memory system, the tiles and engines, the
history streams and the device registers. All of it is plain data. -/

namespace Sys2Proof.Machine

/-! ### Memory (00 R9, 01 R14, 03 R73) -/

/-- Bytes by address in one canonical form: addresses strictly rise and no listed byte is zero, which is what an
unlisted address reads as (a cleared line, R73, R78). `poison` holds the poisoned lines (R73, R75) in rising order. -/
structure Memory where
  cells  : List Host.Cell := []
  poison : List Nat := []
  deriving DecidableEq, Repr

/-- A line of a cache: the scalar L1 of a hart, a cluster cache or an L2 slice (R41, R42, R55, R72). `seen` has the bits of the
harts that have acquired at .c since its bytes were written, and whose wider releases make them visible too (R115); `age` is the
step of its last use (R47). -/
structure CLine where
  owner   : Nat
  line    : Nat
  data    : LineVal
  dirty   : ByteMask := 0
  stale   : Bool := false
  poison  : Bool := false
  writers : BitVec 8 := 0
  seen    : BitVec 8 := 0
  key     : Nat := 0
  age     : Nat := 0
  deriving DecidableEq, Repr

/-- A gathered line of a cluster cache (R46-R49): the elements' physical addresses and values. -/
structure GLine where
  owner : Nat
  first : Nat
  step  : Int
  size  : Nat
  part  : Nat
  asid  : Nat
  elems : List (Nat × Word)
  stale : Bool := false
  age   : Nat := 0
  deriving DecidableEq, Repr

/-- A write on its way to its home (R108-R110). `chan` is true where it performs beneath the L2 (CA = 10); `hart` is the hart whose
store it is, where that performs at its home (R103); `part` is the partition of the page, for a place outside the memory. -/
structure Send where
  origin : Nat
  cluster : Nat
  num    : Nat
  stamp  : List Nat
  line   : Nat
  data   : LineVal
  mask   : ByteMask
  key    : Nat
  chan   : Bool
  poison : Bool := false
  hart   : Option Nat := none
  part   : Nat := 16
  deriving DecidableEq, Repr

/-- What leaves the module (R131): a write to an address beyond it, or the answer to a read that came from outside; with the mark of
a poisoned line, which a Terette Link copy carries (R75). -/
structure OutMsg where
  pa     : Nat
  n      : Nat
  val    : Nat
  poison : Bool := false
  deriving DecidableEq, Repr

/-- A leaf as a translation delivers it (R18, R20), and the partition that it is for. -/
structure Leaf where
  frame : Nat
  big   : Bool
  key   : Nat
  ca    : Nat
  tier  : Bool
  m     : Bool
  d     : Bool
  ns    : Bool
  dt    : Bool
  a     : Bool
  wr    : Bool
  rd    : Bool
  entry : Nat
  part  : Nat := 0
  deriving DecidableEq, Repr

/-- A cached translation of one page (R22): who holds it (the cluster), under which partition and ASID. `stream` is 16 x slot +
q where the stream register q of a context holds it (R32). -/
structure Tlb where
  owner  : Nat
  part   : Nat
  asid   : Nat
  page   : Nat
  leaf   : Leaf
  period : Nat
  stream : Option Nat := none
  deriving DecidableEq, Repr

/-- A table pointer held in a walk cache (R22): the table of level `lvl` for the addresses whose walk has the prefix `pre` (R20). -/
structure WalkPtr where
  owner : Nat
  part  : Nat
  asid  : Nat
  lvl   : Nat
  pre   : Nat
  frame : Nat
  deriving DecidableEq, Repr

/-- A line of a cluster's instruction cache (R122). -/
structure ILine where
  owner : Nat
  line  : Nat
  data  : LineVal
  deriving DecidableEq, Repr

/-! ### Contexts (06, 07, 20) -/

/-- A stream register (R254), and the chain links that its engine holds (R32): page and successor page. -/
structure QReg where
  base   : Word := 0
  stride : Word := 0
  count  : Word := 0
  cfg    : Word := 0
  links  : List (Nat × Nat) := []
  deriving DecidableEq, Repr

/-- A tile register (R282): elements in the order of its image, row flags, and the poisoned elements. -/
structure TReg where
  bits   : BitVec 262144 := 0
  flags  : BitVec 64 := 0
  poison : BitVec 8192 := 0
  deriving DecidableEq, Repr

/-- A register as a destination: the physical slot for a rotating vector name (R228, R362). -/
inductive PReg where
  | s (n : Nat)
  | v (n : Nat)
  | m (n : Nat)
  | c (n : Nat)
  | q (n : Nat)
  | t (n : Nat)
  deriving DecidableEq, Repr

/-- A register write that waits for its visibility point (R168): the register and its value as a number. `hit` names the 64-byte granules
of a vector or mask register in which an element is written. -/
structure RegVal where
  reg   : PReg
  val   : Nat
  marks : BitVec 8192 := 0
  wrote : Bool := false
  hit   : BitVec 32 := 0xFFFFFFFF
  deriving DecidableEq, Repr

/-- A cause with its ctl.tval. -/
structure CauseVal where
  code : Nat
  tval : Word
  deriving DecidableEq, Repr

/-- The pending result of a tagged producer (R168, R169, R362). `done` says that its data has returned, `pass` is PASS at its issue
(R228), `stream` the stream register that its word moves, and `reset` says that a later `qset` has written that one (R258). -/
structure Pending where
  tag   : Nat
  word  : BitVec 32
  slot  : Nat
  done  : Bool
  vals  : List RegVal
  flags : BitVec 5 := 0
  late  : Option CauseVal := none
  ops   : List Word := []
  pass  : Nat := 0
  stream : Option Nat := none
  reset : Bool := false
  deriving DecidableEq, Repr

/-- What a producer that runs again keeps of its first issue beside its operands (R169): PASS as it stood (R228), and whether a later
`qset` has written the stream register that it moves (R258). -/
structure Redo where
  pass  : Nat
  reset : Bool
  deriving DecidableEq, Repr

/-- What the words of the current convoy have held (R170, R171). `drain` says that the next word begins one at a light trap's entry or
return (R358). -/
structure Convoy where
  begins  : Bool := true
  vmem    : Nat := 0
  streams : List Nat := []
  vec     : Nat := 0
  matrix  : Bool := false
  engine  : Bool := false
  drain   : Bool := false
  deriving DecidableEq, Repr

/-- A line pinned by a fetch: the line, and its copy once the tile fetch unit has read it (R291). `zero` is a line of a
discarded page (R36). -/
structure Pinned where
  va   : Nat
  line : Nat
  key  : Nat
  ca   : Nat
  zero : Bool := false
  copy : Option (LineVal × Bool) := none
  deriving DecidableEq, Repr

/-- An unconsumed fetch (R290), with the number of its issue, by which its request stands in the tile fetch unit's queue (R344). -/
structure Fetch where
  rows   : Nat
  nb     : Nat
  base   : Word
  stride : Word
  width  : Nat
  lines  : List Pinned
  id     : Nat := 0
  deriving DecidableEq, Repr

/-- An entry of the matrix queue (R285, R298): the instruction, its scalar operands and its vector operands as read at
issue, the mask, vl, L and tsh that it uses, the rounding mode, the tag of its result, the fetch it consumes, and the tile registers
that an earlier word has declared last used (R172). `fid` is the number of the fetch that an `mfetch` queues (R290). -/
structure MEntry where
  body  : Instr
  ops   : List Word
  vecs  : List (BitVec 16384)
  mask  : BitVec 8192
  vl    : Nat
  lanes : Nat
  tsh   : Word
  mode  : Rm := .rne
  tag   : Nat := 0
  fetch : Option Fetch := none
  fid   : Option Nat := none
  last  : List Nat := []
  deriving DecidableEq, Repr

/-- A cause posted to the context by an engine, the matrix path or a bank core (R291, R308, R330), with what makes it
due: the tiles it names, or the matrix path's destination tile, or the bank instructions. `kept` says that the parked image holds
it (R361). -/
structure Posted where
  code  : Nat
  tval  : Word
  tiles : List Nat := []
  unit  : Nat
  kept  : Bool := false
  deriving DecidableEq, Repr

/-- Where a context stands (R147, R152, R153). -/
inductive CtxStatus where
  | idle | running | out | parked
  deriving DecidableEq, Repr

/-- What the last word did: it retired, it holds issue, it was ended by a cause or by the end of its node, or a pre-emption
stopped it at an element boundary (R152). -/
inductive Fate where
  | retired | held | ended | stopped
  deriving DecidableEq, Repr

/-- A producer that is to run again (R169), set aside while a light trap is in progress (log 88): its word and slot, the resume word,
its operands and what it keeps of its first issue. -/
structure Rerun where
  word   : BitVec 32
  slot   : Nat
  resume : BitVec 32
  ops    : List Word
  redo   : Option Redo
  deriving DecidableEq, Repr

/-- The registers as both slots of a pair read them: as they stood before the word (R163), with what reads below PD and last-use marks
may show of them (R167, R172). -/
structure View where
  s       : Vector Word 64
  recent  : List (List (PReg × Word))
  lastUse : List PReg
  deriving DecidableEq, Repr

/-- A context: the architectural state of one thread (R150, R174) and its place. `redo` is what a producer which runs again keeps of its
first issue, and `cut` the element before which a pre-emption stops the next word
(R152). `cleans` lists the lines that a `cln.r` of the context has still to write to DRAM (R126, R336), and `news` the events that were posted
while it was parked (R359). -/
structure Ctx where
  status  : CtxStatus := .idle
  slot    : Nat := 0
  part    : Nat := 0
  cluster : Nat := 0
  hart    : Nat := 0
  super   : Bool := false
  code    : Word := 0
  pc      : BitVec 32 := 0
  pslot   : Nat := 0
  last    : BitVec 32 := 0
  s       : Vector Word 64 := Vector.replicate 64 0
  v       : Vector (BitVec 16384) 64 := Vector.replicate 64 0
  m       : Vector (BitVec 8192) 16 := Vector.replicate 16 0
  q       : Vector QReg 16 := Vector.replicate 16 {}
  t       : Vector TReg 8 := Vector.replicate 8 {}
  creg    : Vector Word 32 := Vector.replicate 32 0
  ps      : BitVec 128 := 0
  pv      : Vector (BitVec 8192) 64 := Vector.replicate 64 0
  pm      : Vector (BitVec 4096) 16 := Vector.replicate 16 0
  pend    : List Pending := []
  recent  : List (List (PReg × Word)) := []
  lastUse : List PReg := []
  lastNew : List PReg := []
  convoy  : Convoy := {}
  ctl     : Ctl := {}
  held    : Bool := false
  due     : Option (CauseVal × Nat) := none
  leaving : Bool := false
  fate    : Fate := .retired
  rpt     : Bool := false
  rword   : BitVec 32 := 0
  rpop    : List Word := []
  redo    : Option Redo := none
  aside   : Option Rerun := none
  cleans  : List Nat := []
  cut     : Option Nat := none
  posted  : List Posted := []
  news    : BitVec 4 := 0
  mq      : List MEntry := []
  fetches : List Fetch := []
  lreq    : Nat := 0
  lmin    : Nat := 0
  icap    : Nat := 0
  wgt     : Nat := 0
  target  : Nat := 0
  order   : Nat := 0
  timer   : Bool := false
  monitor : Option Nat := none
  waitAt  : Nat := 0
  heard   : Option WakeReason := none
  sync    : Option (BitVec 32 × Nat × BitVec 32) := none
  vtime   : Vector Nat 5 := Vector.replicate 5 0
  views   : Option View := none
  image   : Word := 0
  evicted : List (Nat × BitVec 512) := []
  deriving DecidableEq, Repr

/-! ### Graph engine (06, 19, 20) -/

/-- Where a ready-pool entry stands (R135, R152, R153, R155). -/
inductive NodeStat where
  | waiting | ready | running | engine | out | parked
  deriving DecidableEq, Repr

/-- The launch that created an instance (R137-R140): the record, the domains, extents and scopes of its levels, outermost
first, the instance index and its coordinates. -/
structure LaunchOf where
  va     : Word
  serial : Nat
  doms   : List Nat
  exts   : List Nat
  scopes : List Nat
  index  : Nat
  coords : List Nat
  tail   : Word
  deriving DecidableEq, Repr

/-- What a history node has read from its block (R270): the physical address of the descriptor that names its stream, the first
item's address and the number of items. -/
structure HistRun where
  desc : Nat
  src  : Nat
  cnt  : Nat
  deriving DecidableEq, Repr

/-- A ready-pool entry (R132-R136, R340-R348). `outAt` is the time at which its context left its hart last (R146), `hist` what a history node at work has read from its block. `words` holds the sixteen words of the record as read at submission. -/
structure Node where
  slot    : Nat
  serial  : Nat
  part    : Nat
  asid    : Nat
  va      : Word
  words   : List Word
  pred    : Nat
  stat    : NodeStat
  ready   : Nat := 0
  cls     : Nat := 0
  launch  : Option LaunchOf := none
  extra   : List Word := []
  succs   : List Word := []
  wset    : List (Word × Word) := []
  replay  : Bool := false
  stopped : Nat := 0
  image   : Word := 0
  crec    : Word := 0
  inputs  : List Word := []
  faulted : Option Nat := none
  watchOn : Bool := false
  watch   : Nat := 0
  half    : Bool := false
  cluster : Nat := 0
  prog    : Nat := 0
  hist    : Option HistRun := none
  fixed   : Option Nat := none
  outAt   : Nat := 0
  deriving DecidableEq, Repr

/-- A write of the graph engine that waits until the stager has moved its page (R35): a completion record, a successor's count in
memory, or the image of a context. -/
inductive OwedAct where
  | record (va : Word) (x : Nat)
  | decrement (va : Word)
  | image (c : Ctx)
  deriving DecidableEq, Repr

/-- Such a write, for the node of a slot. -/
structure Owed where
  part : Nat
  asid : Nat
  slot : Nat
  act  : OwedAct
  deriving DecidableEq, Repr

/-- A barrier (R148). -/
structure Barrier where
  serial  : Nat
  level   : Nat
  coords  : List Nat
  phase   : BitVec 32 := 0
  size    : Nat
  arrived : List Nat := []
  deriving DecidableEq, Repr

/-! ### Tiles, engines and banks (02, 16, 17) -/

/-- A scratchpad tile whose owner field or cleared mark differs from the reset state (R50, R54). -/
structure Tile where
  cluster : Nat
  n       : Nat
  owner   : BitVec 32
  clear   : Bool
  deriving DecidableEq, Repr

/-- What the cluster records of a proofed region (R304). -/
structure Region where
  cluster : Nat
  first   : Nat
  count   : Nat
  fw      : Nat
  cols    : Nat
  blocks  : Nat
  deriving DecidableEq, Repr

/-- One write of a copy, within one line: to a memory address of the partition or to the cluster's tile space. -/
structure EngWrite where
  tile   : Bool
  addr   : Nat
  data   : LineVal
  mask   : ByteMask
  poison : Bool
  deriving DecidableEq, Repr

/-- What an engine command does (R306, R307, R316): a copy holds what it read before its issue (R308) as the writes that
it makes, and the bytes it moves. -/
inductive EngOp where
  | copy (out : List EngWrite) (bytes : Nat)
  | sort
  deriving DecidableEq, Repr

/-- An engine command in flight (R308). `node` is true for an engine node (R312), `running` once its engine has taken it up, and
`load` counts the lines of a copy by the HBM channel that they are charged to (R349). The flip back of an `ended` command waits for
the resume of its context (R364), with the cause `fail` that it then posts. `asid` is the ASID that its pages were translated under. -/
structure EngCmd where
  id      : Nat
  slot    : Nat
  part    : Nat
  asid    : Nat
  cluster : Nat
  node    : Bool
  op      : EngOp
  tiles   : List Nat
  pages   : List (Nat × Leaf)
  steps   : Nat := 0
  running : Bool := false
  parked  : Bool := false
  load    : List (Nat × Nat) := []
  ended   : Bool := false
  fail    : Option CauseVal := none
  deriving DecidableEq, Repr

/-- A bank command, gather or scatter-add in flight (R327-R332). `owed` lists the accesses of lines, a write or a read at a VA, that the
bank-command budget has still to grant it (R319, R350). `asid` is the ASID that its pages were translated under. `seen` lists the blocks
whose message has been taken, and `got` the elements that a gather's messages brought (R333). -/
structure BankCmd where
  id      : Nat
  slot    : Nat
  part    : Nat
  asid    : Nat
  node    : Bool
  kind    : Nat
  recVa   : Word
  ef      : Nat
  expr    : List Byte
  consts  : List (BitVec 32)
  a       : Nat
  b       : Nat
  c       : Nat
  d       : Nat
  n       : Nat
  tag     : Nat := 0
  entries : List (Nat × Nat) := []
  done    : Nat := 0
  acc     : Option (BitVec 32) := none
  seen    : List Nat := []
  got     : List (Nat × Nat) := []
  owed    : List (Bool × Nat) := []
  pages   : List (Nat × Leaf)
  deriving DecidableEq, Repr

/-- A message in one of the eight mailboxes of a bank core (R333): the core, the mailbox, the core that sent it, the command and
the block that it is about, and its 64 bytes. -/
structure MailBox where
  core  : Nat
  box   : Nat
  src   : Nat
  cmd   : Nat
  block : Nat
  data  : BitVec 512
  deriving DecidableEq, Repr

/-- A context's request that waits at a shared resource (R344), by the number of the resource; `granted` once it has its slot. -/
structure Ask where
  res     : Nat
  slot    : Nat
  granted : Bool := false
  deriving DecidableEq, Repr

/-! ### History (04) -/

/-- An append stalled on a stream (R97): the slot of its context or history node, since when it waits, and its item. `va` is the address
by which a `happ` names the stream, for ctl.tval (R31). -/
structure Stall where
  slot : Nat
  node : Bool
  time : Nat
  item : Nat
  va   : Word := 0
  deriving DecidableEq, Repr

/-- A registered stream (R84, R90, R97): the configuration read at registration, the frames it uses, the time from which
it may commit again (R94), the level to retry after a restart (R101) and the appends stalled on it, oldest first. -/
structure HStream where
  va      : Word
  part    : Nat
  asid    : Nat
  stack   : Nat
  cfg     : Word
  lbase   : Word
  hnode   : Word
  caps    : List Nat
  comb    : List Byte
  consts  : List (BitVec 32)
  pages   : List (Nat × Leaf)
  commit  : Nat := 0
  retry   : Option Nat := none
  stalled : List Stall := []
  deriving DecidableEq, Repr

/-! ### Device registers, links and management (19, 23) -/

/-- The registers of a partition's block (R383). -/
structure Part where
  ppol    : Word := 3
  poct    : BitVec 48 := 0
  pclu    : BitVec 128 := 0
  plink   : BitVec 144 := 0
  tdirb   : Word := 0
  subbase : Word := 0
  launch  : BitVec 12 := 0
  subci   : BitVec 12 := 0
  drcnt   : BitVec 48 := 0
  l2scr   : BitVec 32 := 0
  l2next  : BitVec 4 := 0
  stgctl  : BitVec 32 := 0x32
  stgstat : Word := 0
  stgfast : Word := 0
  stgcap  : Word := 0
  psched  : Word := 0x000000F500400001
  deriving DecidableEq, Repr

/-- An allotted key slot (R40, R72). -/
structure KeySlot where
  id   : Nat
  part : Option Nat
  gen  : Nat
  deriving DecidableEq, Repr

/-- The key slot and generation under which a DRAM line was last written (R71, R72); a line not listed is cleared. -/
structure KeyTag where
  line : Nat
  key  : Nat
  gen  : Nat
  deriving DecidableEq, Repr

/-- A record of the event log (R392). -/
structure LogRec where
  time  : Nat
  code  : Nat
  pa    : Nat
  part  : Nat
  count : Nat
  deriving DecidableEq, Repr

/-- A Terette Link port (R387, R388). Of the flits it sends: the next number, the oldest unacknowledged one, the flit last
asked for again and how often, and the messages that wait while it takes no new flits. Of those it receives: the next number due, what it
has delivered, the replays that it has asked for, oldest first, how often each flit that has not been delivered has failed, and the times
and lanes of recent CRC failures. `failing` is a lane found failing, `lane` the good lane of a repaired port. `stuck` says that the replay
of a flit has failed three times, and the port has not retrained since (R388). -/
structure Link where
  port     : Nat
  txNext   : Nat := 0
  acked    : Nat := 0
  asked    : Nat := 0
  replays  : Nat := 0
  rxNext   : Nat := 0
  queue    : List OutMsg := []
  got      : List Nat := []
  wants    : List Nat := []
  fails    : List (Nat × Nat) := []
  errors   : List (Nat × Nat) := []
  failing  : Option Nat := none
  lane     : Option Nat := none
  stuck    : Bool := false
  retrains : Nat := 0
  up       : Bool := true
  deriving DecidableEq, Repr

/-- A migration that has begun (R65, R67, R78): `up` for a promotion, of the page at VA / 64 KiB `page` of an ASID, with `wi` where
the working set says that it will be written. -/
structure Migration where
  part  : Nat
  asid  : Nat
  entry : Nat
  old   : Nat
  new   : Nat
  up    : Bool
  page  : Nat
  wi    : Bool
  deriving DecidableEq, Repr

/-- The firmware image in flash, the one that runs, and the bring-up (R389-R391): `live` where the image that runs was verified,
`recovery` where it is the recovery image; and the repair maps of the channels and controllers, whose form the specification does
not give. -/
structure Firmware where
  image    : Nat := 0
  running  : Nat := 0
  version  : Nat := 0
  valid    : Bool := true
  fuse     : Nat := 0
  staged   : Option Nat := none
  live     : Bool := true
  recovery : Bool := false
  raise    : Bool := false
  maps     : Nat := 0
  deriving DecidableEq, Repr

/-! ### The state -/

/-- What happens next from outside the words of the context in focus (log 2): an event of the opcode table, the turn of a hart
to issue one word, an error that arises in the stored code of a DRAM line, `hard` where it is uncorrectable (R73, R74), the
pre-emption of a context that stops its long vector instruction before element `k` (R152), or an uncorrectable error found in the
32-bit granule `k` of a register of a context (R363). -/
inductive Move where
  | event (i : Instr)
  | turn (h : Nat)
  | flaw (line : Nat) (hard : Bool)
  | stop (slot k : Nat)
  | upset (slot : Nat) (r : PReg) (k : Nat)
  deriving DecidableEq, Repr

/-- The state of the machine. `cur` is the context of the hart that issues next; `others` holds every other context, on a hart,
switched out or parked. `gangs` lists the clusters of each gang that runs, by its launch and group (R146). `agenda` holds the
moves that happen before the next word of the context in focus, oldest first: it is the model's own (log 2), as is `nd`, the
number of the step (log 3). -/
structure State where
  cur     : Ctx
  others  : List Ctx
  agenda  : List Move
  nd      : Nat
  time    : Nat
  period  : Nat
  mem     : Memory
  latent  : List (Nat × Bool)
  ktags   : List KeyTag
  l1      : List CLine
  cc      : List CLine
  gath    : List GLine
  l2      : List CLine
  icache  : List ILine
  tlb     : List Tlb
  walks   : List WalkPtr
  sends   : List Send
  counts  : List Nat
  clocks  : List (List Nat)
  stamps  : List (Nat × List Nat)
  marks   : List (Nat × List Nat)
  fot     : List (Nat × Byte)
  keys    : List KeySlot
  l2s     : Memory
  tmem    : Memory
  tiles   : List Tile
  regions : List Region
  cmds    : List EngCmd
  bank    : List BankCmd
  mail    : List (Nat × Nat)
  boxes   : List MailBox
  wake    : List (Nat × BitVec 8)
  asks    : List Ask
  serial  : Nat
  nodes   : List Node
  records : List (Nat × Word)
  counters : List (Nat × Nat)
  bars    : List Barrier
  drains  : List (Nat × Nat × List Nat)
  gangs   : List ((Nat × List Nat) × List Nat)
  streams : List HStream
  commits : List (Nat × Nat)
  parts   : Vector Part 16
  rstctl  : BitVec 32
  pwrstat : Word
  budg0   : Word
  budg1   : Word
  credits : List (Nat × Int)
  limits  : Vector (BitVec 4) 128
  hot     : List Nat
  log     : List LogRec
  msix    : List (Nat × Nat)
  links   : List Link
  outbox  : List OutMsg
  sensors : List Nat
  replies : List (List Nat)
  migs    : List Migration
  owed    : List Owed
  marked  : List (Nat × Nat)
  promoted : List (Nat × Nat × Nat × Bool)
  fw      : Firmware
  deriving DecidableEq, Repr

/-- Why the machine stops with a fault. -/
inductive Fault where
  /-- An access to a physical address that the map of R14 gives to nothing; raised for accesses from outside the module and for
  a submission ring placed there, since a translation lets no such address through. Safe: the machine stops. -/
  | noSuchAddress (pa : Nat)
  deriving DecidableEq, Repr

/-- Why an instruction is refused. -/
inductive Refusal where
  /-- The instruction has no meaning in this model yet; raised by the dispatcher alone. Safe: nothing is claimed. -/
  | notModelled (mnemonic : String)
  deriving DecidableEq, Repr

/-- What a step or a meaning answers. -/
abbrev Out := Host.Outcome State Fault Refusal

/-- The module right after a reset (03 R78, 23 R383): memory lists nothing, every tile is free, no context and no node
exists, and each register holds the value its chapter gives; log 1 names the values the specification does not give. -/
def State.reset : State where
  cur := {}
  others := []
  agenda := []
  nd := 0
  time := 0
  period := 0
  mem := {}
  latent := []
  ktags := []
  l1 := []
  cc := []
  gath := []
  l2 := []
  icache := []
  tlb := []
  walks := []
  sends := []
  counts := [0, 0, 0, 0, 0]
  clocks := List.replicate 5 [0, 0, 0, 0, 0]
  stamps := []
  marks := []
  fot := []
  keys := []
  l2s := {}
  tmem := {}
  tiles := []
  regions := []
  cmds := []
  bank := []
  mail := []
  boxes := []
  wake := []
  asks := []
  serial := 0
  nodes := []
  records := []
  counters := []
  bars := []
  drains := []
  gangs := []
  streams := []
  commits := []
  parts := Vector.replicate 16 {}
  rstctl := 0
  pwrstat := 8
  budg0 := 0x3200028001400020
  budg1 := 0x640
  credits := []
  limits := Vector.replicate 128 8
  hot := []
  log := []
  msix := []
  links := []
  outbox := []
  sensors := []
  replies := []
  migs := []
  owed := []
  marked := []
  promoted := []
  fw := {}

end Sys2Proof.Machine
end

