-- ==== Sys2Proof/Machine/Memory.lean ====
section
/-! DEFINITION. Memory as a canonical list of bytes, read and written by 128-byte lines, and the physical map of R14. -/

namespace Sys2Proof.Machine

/-- The canonical form: addresses strictly rise, no listed byte is what an unlisted address reads as, zero, and the poisoned
lines strictly rise. -/
def Memory.wf (m : Memory) : Bool :=
  (m.cells.map Prod.fst).Pairwise (· < ·) && m.cells.all (fun c => c.2 != 0) && m.poison.Pairwise (· < ·)

/-- One byte; an address that is not listed reads as zero (a cleared line, R73). -/
def Memory.byte (m : Memory) (a : Nat) : Byte :=
  match m.cells.find? (fun c => c.1 == a) with
  | some c => c.2
  | none => 0

/-- Line `l`, bytes 128 l to 128 l + 127, byte 0 in the low bits (R9). -/
def Memory.line (m : Memory) (l : Nat) : LineVal :=
  (m.cells.filter fun c => c.1 / 128 == l).foldl
    (fun (acc : LineVal) c => acc ||| ((c.2.setWidth 1024 : LineVal) <<< (8 * (c.1 % 128)))) (0 : LineVal)

/-- The listed cells of a line that holds `d`. -/
def lineCells (l : Nat) (d : LineVal) : List Host.Cell :=
  (List.range 128).filterMap fun k =>
    let b := d.extractLsb' (8 * k) 8
    if b = 0 then none else some (128 * l + k, b)

/-- Line `l` replaced by `d`. -/
def Memory.setLine (m : Memory) (l : Nat) (d : LineVal) : Memory :=
  { m with cells := (m.cells.filter fun c => c.1 / 128 < l) ++ lineCells l d ++ (m.cells.filter fun c => l < c.1 / 128) }

/-- Line `l` is poisoned (R73). -/
def Memory.poisoned (m : Memory) (l : Nat) : Bool := m.poison.contains l

/-- Line `l` marked or cleared of poison (R73, R75). -/
def Memory.setPoison (m : Memory) (l : Nat) (p : Bool) : Memory :=
  let rest := m.poison.filter (· != l)
  { m with poison := if p then (rest.filter (· < l)) ++ [l] ++ (rest.filter (l < ·)) else rest }

/-- A write of the bytes of `d` under the mask; a write of the whole line clears its poison and a partial one carries
it (R75). -/
def Memory.merge (m : Memory) (l : Nat) (d : LineVal) (mask : ByteMask) (p : Bool) : Memory :=
  if mask = fullMask then (m.setLine l d).setPoison l p
  else
    let m' := m.setLine l (mergeLine (m.line l) d mask)
    if p then m'.setPoison l true else m'

/-- Zero bytes in every line of a range of lines, poison cleared. -/
def Memory.clear (m : Memory) (lo hi : Nat) : Memory :=
  { cells := m.cells.filter fun c => c.1 / 128 < lo || hi ≤ c.1 / 128,
    poison := m.poison.filter fun l => l < lo || hi ≤ l }

/-- `n` bytes at `a`, little-endian, across lines. -/
def Memory.get (m : Memory) (a n : Nat) : Nat := ofBytes ((List.range n).map fun k => m.byte (a + k))

/-- The regions of the physical map (R14). -/
inductive Region14 where
  | fast | cap | reserve | device | root | remote | hole
  deriving DecidableEq, Repr

/-- The region of a physical address (R14). -/
def region (pa : Nat) : Region14 :=
  if pa < 0xC000000000 then .fast
  else if pa < 0x20000000000 then .hole
  else if pa < 0x3FFFC000000 then .cap
  else if pa < 0x40000000000 then .reserve
  else if pa < 0x40100000000 then .device
  else if pa < 0x1000000000000 then .hole
  else if pa < 0x2000000000000 then .root
  else if pa < 0x4000000000000 then .remote
  else .hole

/-- The octet of a fast-tier address (R15). -/
def octetOf (pa : Nat) : Nat := pa / 2 ^ 34 % 64

/-- The home slice, and the channel, of a fast-tier line (R15). -/
def sliceOf (line : Nat) : Nat := 8 * octetOf (128 * line) + line % 8

/-- The stack of a fast-tier address (R15). -/
def stackOf (pa : Nat) : Nat := octetOf pa / 4

/-- The origin of a cluster numbered over all dies: its compute die (R108). -/
def originOf (cluster : Nat) : Nat := if cluster < 128 then cluster / 32 else 4

end Sys2Proof.Machine
end

