-- ==== Sys2Proof/Machine/Caches.lean ====
section
/-! DEFINITION. The caches, the homes and the writes between them: DRAM under its keys (03 R71-R73), L2 slices (02 R55),
sends and their causal order (05 R106-R110), cluster caches and gathered lines (02 R42-R49), scalar L1s (02 R41), and
the actions of an acquire and a release (02 R44). -/

namespace Sys2Proof.Machine

/-! ### Lists of lines, most recently used first -/

/-- The line is line `l` of cache `o`. -/
def CLine.isAt (o l : Nat) (c : CLine) : Bool := c.owner == o && c.line == l

/-- The line that cache `o` holds for `l`. -/
def cacheFind (cs : List CLine) (o l : Nat) : Option CLine := cs.find? (CLine.isAt o l)

/-- Line `l` of cache `o` dropped. -/
def cacheDrop (cs : List CLine) (o l : Nat) : List CLine := cs.filter fun c => !c.isAt o l

/-- A line put in front as the most recently used one of its cache. -/
def cachePut (cs : List CLine) (c : CLine) : List CLine := c :: cacheDrop cs c.owner c.line

/-- The least recently used line that makes room in the set of `l`, when the set is full (log 10). `idx` numbers sets. -/
def cacheVictim (cs : List CLine) (o ways : Nat) (idx : Nat → Nat) (l : Nat) : Option CLine :=
  let same := cs.filter fun c => c.owner == o && c.line != l && idx c.line == idx l
  if same.length < ways then none else same.getLast?

/-! ### The event log (R392) -/

/-- A kind that R351 marks reserved: no code of it appears anywhere. -/
def reservedKind (cls kind : Nat) : Bool :=
  match cls with
  | 2 | 5 => kind == 7
  | 3 => 6 ≤ kind
  | 4 => 1 ≤ kind
  | 7 => 4 ≤ kind
  | _ => false

/-- The code of an event that the specification gives no code: a free value (log 3), but never a reserved cause (R351). -/
def openCode (nd : Nat) : Nat :=
  let k := Config.pick nd 20
  if k < 512 && reservedKind (k / 64) (k % 8) then 512 + k else k

/-- A record of the event log, which keeps the newest 65,536; `part` 16 names no partition. -/
def State.logRec (s : State) (code pa part count : Nat) : State :=
  let r : LogRec := { time := s.time, code := code, pa := pa, part := part, count := count }
  { s with log := (s.log ++ [r]).drop (s.log.length + 1 - 65536) }

/-! ### Credits of the HBM channels (R349, R350) -/

/-- The activities that a channel budgets (R349). -/
inductive Activity where
  | bank | stage | knead | scrub | copy
  deriving DecidableEq, Repr

/-- The number of an activity. -/
def Activity.num : Activity → Nat
  | .bank => 0 | .stage => 1 | .knead => 2 | .scrub => 3 | .copy => 4

/-- The allowance B of an activity as the registers stand (R349). -/
def State.allowance (s : State) : Activity → Nat
  | .bank => bits s.budg0 48 16
  | .stage => bits s.budg0 32 16
  | .knead => bits s.budg0 16 16
  | .scrub => bits s.budg0 0 16
  | .copy => bits s.budg1 0 16

/-- Where the credit of a channel and activity is listed. -/
def creditKey (ch : Nat) (a : Activity) : Nat := 8 * ch + a.num

/-- Where the allowance that the last boundary gave an activity is listed. -/
def baseKey (a : Activity) : Nat := 4000 + a.num

/-- The listed number under a key. -/
def State.creditAt (s : State) (k : Nat) : Option Int := (s.credits.find? fun e => e.1 == k).map (·.2)

/-- The credit C of a channel and activity (R350); one that is not listed stands at the allowance of the last boundary. -/
def State.credit (s : State) (ch : Nat) (a : Activity) : Int :=
  match s.creditAt (creditKey ch a) with
  | some c => c
  | none => ((s.creditAt (baseKey a)).map Int.toNat).getD (s.allowance a)

/-- A number listed under a key. -/
def State.setCredit (s : State) (k : Nat) (x : Int) : State :=
  { s with credits := (k, x) :: s.credits.filter fun e => e.1 != k }

/-- `n` line accesses charged to a channel (R350). -/
def State.charge (s : State) (ch : Nat) (a : Activity) (n : Nat) : State :=
  s.setCredit (creditKey ch a) (s.credit ch a - n)

/-! ### DRAM under its keys -/

/-- The generation of a key slot (R72). -/
def State.keyGen (s : State) (key : Nat) : Nat :=
  match s.keys.find? (fun k => k.id == key) with
  | some k => k.gen
  | none => 0

/-- A DRAM line as a reader under `key` finds it (R71-R73): a cleared line reads as zero under any key, and a line
written under another key or generation as the decryption of its stored bytes. -/
def State.dramRead (s : State) (l key : Nat) : LineVal × Bool :=
  let d := s.mem.line l
  let p := s.mem.poisoned l
  match s.ktags.find? (fun t => t.line == l) with
  | none => (d, p)
  | some t =>
    if t.key = key ∧ t.gen = s.keyGen key then (d, p)
    else (Config.otherKey (t.key, t.gen) (key, s.keyGen key) l d, p)

/-- A read of a DRAM line meets the errors of its stored code: a corrected one is counted in the event log against the line's
stack and channel (R73), and an uncorrectable one becomes poison in place and is logged (R74). That write never waits, and the
channel is charged for it (R350): DEDUCED, with the scrubber's lines, whose work it is (log 94). -/
def State.meet (s : State) (l : Nat) : State :=
  if s.latent.contains (l, true) then
    let s := if region (128 * l) == .fast then s.charge (sliceOf l) .scrub 1 else s
    { s with mem := s.mem.setPoison l true, latent := s.latent.filter fun e => e.1 != l }.logRec (openCode s.nd) (128 * l) 16 1
  else if s.latent.contains (l, false) then s.logRec (openCode s.nd) (128 * l) 16 1
  else s

/-- A rewritten line has no errors: its check data are new (R73). -/
def State.healed (s : State) (l : Nat) : State := { s with latent := s.latent.filter fun e => e.1 != l }

/-- The bytes of `d` under the mask written to a DRAM line under `key`; the whole line is encrypted again (R71, R73). A part of a
line is merged into what the channel reads there. -/
def State.dramWrite (s : State) (l key : Nat) (d : LineVal) (mask : ByteMask) (p : Bool) : State :=
  if mask = 0 then s else
    let s := if mask = fullMask then s else s.meet l
    let s := s.healed l
    let old := (s.dramRead l key).1
    let full := if mask = fullMask then d else mergeLine old d mask
    let tag : KeyTag := { line := l, key := key, gen := s.keyGen key }
    { s with
      mem := if mask = fullMask then (s.mem.setLine l full).setPoison l p
             else if p then (s.mem.setLine l full).setPoison l true else s.mem.setLine l full
      ktags := tag :: s.ktags.filter fun t => t.line != l }

/-! ### Homes -/

/-- The partition that owns an octet (R56). -/
def State.octetPart (s : State) (oct : Nat) : Option Nat :=
  (List.range 16).find? fun p => (s.parts.getD p {}).poct.getLsbD oct

/-- Ways of a slice that cache lines: those that are not scratch, and not about to be or just freed while BUSY = 1 (R57). -/
def State.l2Ways (s : State) (slice : Nat) : Nat :=
  match s.octetPart (slice / 8) with
  | some p =>
    let r := s.parts.getD p {}
    16 - max (bits r.l2scr 0 4) (if r.l2scr.getLsbD 31 then r.l2next.toNat else 0)
  | none => 16

/-- An L2 line written back to its channel (R55). -/
def State.l2WriteBack (s : State) (c : CLine) : State :=
  if c.dirty = 0 then s else s.dramWrite c.line c.key c.data c.dirty c.poison

/-- The set of a line in an L2 slice (log 10). -/
def l2Set (l : Nat) : Nat := l / 8 % 512

/-- The line of `l` in its home slice under `key`, filled from the channel on a miss (R55, R72). -/
def State.l2Fetch (s : State) (l key : Nat) : CLine × State :=
  let o := sliceOf l
  let fill (s : State) : CLine × State :=
    let s := match cacheVictim s.l2 o (s.l2Ways o) l2Set l with
      | some v => { s.l2WriteBack v with l2 := cacheDrop s.l2 v.owner v.line }
      | none => s
    let s := s.meet l
    let (d, p) := s.dramRead l key
    let c : CLine := { owner := o, line := l, data := d, poison := p, key := key }
    (c, { s with l2 := cachePut s.l2 c })
  match cacheFind s.l2 o l with
  | some c => if c.key = key then (c, { s with l2 := cachePut s.l2 c })
              else fill { s.l2WriteBack c with l2 := cacheDrop s.l2 o l }
  | none => fill s

/-- The place of a line is the L2 slice: a fast-tier line that is not reached memory-side (R23, R60). -/
def inL2 (l : Nat) (chan : Bool) : Bool := !chan && region (128 * l) == .fast

/-- The contents that the home of a line serves (R104), with its poison. -/
def State.homeLine (s : State) (l key : Nat) (chan : Bool) : (LineVal × Bool) × State :=
  if inL2 l chan then
    let (c, s) := s.l2Fetch l key
    ((c.data, c.poison), s)
  else
    let s := s.meet l
    (s.dramRead l key, s)

/-- The bytes of `d` under the mask merged at the home of a line (R104, R75). -/
def State.homeMerge (s : State) (l key : Nat) (chan : Bool) (d : LineVal) (mask : ByteMask) (p : Bool) : State :=
  if mask = 0 then s
  else if inL2 l chan then
    let (c, s) := s.l2Fetch l key
    let c := { c with data := mergeLine c.data d mask, dirty := c.dirty ||| mask,
                      poison := if mask = fullMask then p else c.poison || p }
    { s with l2 := cachePut s.l2 c }
  else s.dramWrite l key d mask p

/-- 65.536 µs in tenths of a ck (R2). -/
def wfeTenths : Nat := 16 * 110592

/-- The monitor of a context has timed out (R149). -/
def State.wfeOver (s : State) (c : Ctx) : Bool := wfeTenths ≤ 10 * (s.time - c.waitAt)

/-- A write applied at the home of a line is met by the monitors armed on it (R149); one that comes after the time of the wait finds it
ended by the time. A write that the waiting context's own cluster sent may be its own, freely (log 23). -/
def State.noteWrite (s : State) (l : Nat) (from_ : Option Nat) : State :=
  let hear (c : Ctx) : Ctx :=
    if c.monitor = some l ∧ c.heard.isNone ∧ (from_ ≠ some c.cluster ∨ Config.choice s.nd 8) then
      { c with heard := some (if s.wfeOver c then .timeout else .write) }
    else c
  { s with cur := hear s.cur, others := s.others.map hear }

/-- A write applied at its home (R104) by another agent than a waiting context. -/
def State.homeApply (s : State) (l key : Nat) (chan : Bool) (d : LineVal) (mask : ByteMask) (p : Bool) : State :=
  (s.homeMerge l key chan d mask p).noteWrite l none

/-! ### Writes that leave the memory: device registers (R383-R386) and addresses beyond the module (R131, R387, R388) -/

/-- The partition's registers. -/
def State.partReg (s : State) (p : Nat) : Part := s.parts.getD p {}

/-- A record of the event log (R392), which keeps the newest 65,536; `vec` is the MSI-X vector of the named partition that
the record raises (R386). `part` 16 names none; code 0 stands for an event whose code the specification does not give, a free
value (log 3). -/
def State.logEvent (s : State) (code pa part count vec : Nat) : State :=
  { s.logRec (if code = 0 then openCode s.nd else code) pa part count with
    msix := if part < 16 then s.msix ++ [(part, vec)] else s.msix }

/-- A write of LAUNCH (R385): the entries up to the index become pending; a value that would make too many or fewer
pending is ignored and logged. -/
def State.launchWrite (s : State) (p : Nat) (v : Word) : State :=
  let r := s.partReg p
  let i : BitVec 12 := v.setWidth 12
  let n := (i - r.subci).toNat
  if n > 2048 ∨ n < (r.launch - r.subci).toNat then s.logEvent 0 (0x40000010108 + 65536 * p) p 1 2
  else { s with parts := s.parts.setIfInBounds p { r with launch := i } }

/-- A write of INTPOST (R386): the vector is raised; vectors 1 and 2 are reserved, ignored and logged. -/
def State.intpostWrite (s : State) (p : Nat) (v : Word) : State :=
  let k := bits v 0 4
  if k = 1 ∨ k = 2 then s.logEvent 0 (0x40000010148 + 65536 * p) p 1 2
  else { s with msix := s.msix ++ [(p, k)] }

/-- A port's link; one that is not listed is up and has carried nothing. -/
def State.linkOf (s : State) (k : Nat) : Link := (s.links.find? fun l => l.port == k).getD { port := k }

/-- A port's link replaced. -/
def State.setLink (s : State) (l : Link) : State := { s with links := l :: s.links.filter fun m => m.port != l.port }

/-- The ports of a partition that are up and lead to the module of a remote address (R388). -/
def State.portsTo (s : State) (p pa : Nat) : List Nat :=
  (List.range 144).filter fun k =>
    (s.partReg p).plink.getLsbD k && (s.linkOf k).up && Config.reaches k (pa / 2 ^ 42 % 128)

/-- A remote address that no port of the partition reaches (R388). -/
def State.cutOff (s : State) (p pa : Nat) : Bool := region pa == .remote && (s.portsTo p pa).isEmpty

/-- The next flit of a port is sent (R387). The replay buffer holds 256 flits, so the oldest of as many has been acknowledged by
then. -/
def Link.send (l : Link) : Link :=
  { l with txNext := (l.txNext + 1) % 4096
           acked := if (l.txNext + 4096 - l.acked) % 4096 < 256 then l.acked else (l.acked + 1) % 4096 }

/-- A port takes new flits: no lane of it has been found failing, and it does not retrain (R388). -/
def Link.takes (l : Link) : Bool := l.failing.isNone && !l.stuck

/-- The messages that wait at a port, sent. -/
def Link.flushed (l : Link) : Link := l.queue.foldl (fun l _ => l.send) { l with queue := [] }

/-- A port whose messages that waited leave the module. -/
def State.flushLink (s : State) (l : Link) : State := { s.setLink l.flushed with outbox := s.outbox ++ l.queue }

/-- A port moves to its good lane once every sent flit is acknowledged (R388). -/
def Link.repaired (l : Link) (bad : Nat) : Link :=
  { l with acked := l.txNext, replays := 0, lane := some (1 - bad), errors := [], failing := none }

/-- A port that has retrained, on both lanes (R388). -/
def Link.retrained (l : Link) : Link :=
  { l with replays := 0, fails := [], retrains := 0, lane := none, errors := [], failing := none, stuck := false }

/-- Every flit of a port is acknowledged: one whose replays have failed has retrained before, and one at which messages wait for a failing
lane has been repaired (R388). -/
def Link.settled (l : Link) : Link :=
  if l.queue = [] ∧ l.acked = l.txNext then l
  else
    let l := if l.stuck then l.retrained else match l.queue, l.failing with
      | _ :: _, some k => l.repaired k
      | _, _ => l
    { l.flushed with acked := l.flushed.txNext, replays := 0 }

/-- A write within one line that leaves the module: over one of the partition's ports, freely chosen among those that take flits, or
dropped and logged where none leads there (R388). Where none takes flits, or messages for that module wait already, it waits. -/
def State.writeBeyond (s : State) (p pa n x : Nat) (bad : Bool) : State :=
  let m : OutMsg := { pa := pa, n := n, val := x, poison := bad }
  if s.cutOff p pa then
    { s.logRec (openCode s.nd) pa p 1 with msix := s.msix ++ [(p, 2)] }
  else if region pa != .remote then { s with outbox := s.outbox ++ [m] }
  else
    let ks := s.portsTo p pa
    let open_ := ks.filter fun k => (s.linkOf k).takes
    match ks.find? fun k => (s.linkOf k).queue != [] with
    | some k => s.setLink { s.linkOf k with queue := (s.linkOf k).queue ++ [m] }
    | none => match open_ with
      | [] => let l := s.linkOf (ks.headD 0); s.setLink { l with queue := l.queue ++ [m] }
      | _ => { s.setLink (s.linkOf (open_.getD (Config.pick s.nd 21 % max 1 open_.length) 0)).send with outbox := s.outbox ++ [m] }

/-- The partition that owns a port. -/
def State.portPart (s : State) (k : Nat) : Nat :=
  ((List.range 16).find? fun p => (s.partReg p).plink.getLsbD k).getD 16

/-- Another port of the same partition that is up leads where a port leads. -/
def State.otherWay (s : State) (k : Nat) : Bool :=
  (List.range 144).any fun j => j != k && (s.partReg (s.portPart k)).plink.getLsbD j && (s.linkOf j).up
    && (List.range 128).any fun m => Config.reaches k m && Config.reaches j m

/-- A port goes down (R388): what it had not delivered is dropped and logged where no other port leads there, and what waits at it goes
over another port or is dropped. -/
def State.portDown (s : State) (port : Nat) : State :=
  let l := s.linkOf port
  let n := (l.txNext + 4096 - l.acked) % 4096
  let s := s.logEvent 0 0 (s.portPart port) 1 2
  let s := if 0 < n && !s.otherWay port then s.logEvent 0 0 (s.portPart port) n 2 else s
  l.queue.foldl (fun s m => s.writeBeyond (s.portPart port) m.pa m.n m.val m.poison)
    (s.setLink { l with up := false, acked := l.txNext, queue := [] })

/-! ### Sends and causal order (R108-R111) -/

/-- The vector that origin `o` has observed. -/
def State.clock (s : State) (o : Nat) : List Nat := s.clocks.getD o [0, 0, 0, 0, 0]

/-- The larger of two vectors, entry by entry (R108). -/
def clockMax (a b : List Nat) : List Nat := (List.range 5).map fun k => max (a.getD k 0) (b.getD k 0)

/-- The stamp covers a send. -/
def covered (v : List Nat) (t : Send) : Bool := t.num ≤ v.getD t.origin 0

/-- A write goes out under its origin's next number and vector (R108). -/
def State.emit (s : State) (w : Send) : State :=
  if w.mask = 0 then s else
    let o := originOf w.cluster
    let n := s.counts.getD o 0 + 1
    let v := (s.clock o).set o n
    { s with counts := s.counts.set o n, clocks := s.clocks.set o v
             sends := s.sends ++ [{ w with origin := o, num := n, stamp := v }] }

/-- A write leaves its cluster toward its home in memory; `hart` is set for a store that performs there (R103). -/
def State.send (s : State) (cluster l key : Nat) (chan : Bool) (d : LineVal) (mask : ByteMask) (p : Bool)
    (hart : Option Nat := none) : State :=
  s.emit { origin := 0, cluster := cluster, num := 0, stamp := [], line := l, data := d, mask := mask, key := key, chan := chan,
           poison := p, hart := hart }

/-- The stamp of the write whose value a line holds. -/
def State.lineStamp (s : State) (l : Nat) : List Nat :=
  match s.stamps.find? (fun t => t.1 == l) with
  | some t => t.2
  | none => [0, 0, 0, 0, 0]

/-- The physical address of a send's first byte. -/
def Send.pa (t : Send) : Nat := 128 * t.line + ((List.range 128).find? fun k => t.mask.getLsbD k).getD 0

/-- What a write does where it arrives: bytes of memory, LAUNCH or INTPOST (R383), or a word beyond the module (R131). -/
def State.land (s : State) (t : Send) : State :=
  let n := popCount t.mask.toNat 128
  let x := lineGet t.data (t.pa % 128) n
  match region t.pa with
  | .fast | .cap | .reserve => (s.homeMerge t.line t.key t.chan t.data t.mask t.poison).noteWrite t.line (some t.cluster)
  | .device =>
    let p := (t.pa - 0x40000010000) / 65536
    if t.pa % 65536 = 0x108 then s.launchWrite p (BitVec.ofNat 64 x) else s.intpostWrite p (BitVec.ofNat 64 x)
  | _ => s.writeBeyond t.part t.pa n x t.poison

/-- A held write is applied at its home and leaves the fabric (R109). -/
def State.applySend (s : State) (t : Send) : State :=
  let s := s.land t
  { s with sends := s.sends.filter fun u => !(u.origin == t.origin && u.num == t.num)
           stamps := (t.line, clockMax t.stamp (s.lineStamp t.line)) :: s.stamps.filter fun u => u.1 != t.line }

/-- A write to a place outside the memory leaves cluster `o`: a write of origin `o` as any other (R108), but to a remote module it is
ordered by no vector clock and goes over a link at once (R131). -/
def State.sendOut (s : State) (o : Nat) (hart : Option Nat) (l : Leaf) (pa : Nat) (d : LineVal) (mask : ByteMask) (p : Bool) :
    State :=
  if region pa == .remote then
    let n := popCount mask.toNat 128
    s.writeBeyond l.part pa n (lineGet d (pa % 128) n) p
  else s.emit { origin := 0, cluster := o, num := 0, stamp := [], line := pa / 128, data := d, mask := mask, key := l.key,
                chan := true, poison := p, hart := hart, part := l.part }

/-- Every write that the vector covers is applied, in the order of sending (R109, R112). -/
def State.drain (s : State) (v : List Nat) : State := (s.sends.filter (covered v)).foldl State.applySend s

/-- A held write is applied after all that its own stamp covers (R109). -/
def State.ownDrain (s : State) (t : Send) : State := s.drain t.stamp

/-- A held write may be applied: nothing that its stamp covers is still held (R109). -/
def State.canApply (s : State) (t : Send) : Bool :=
  s.sends.all fun u => (u.origin == t.origin && u.num == t.num) || !covered t.stamp u

/-- The cluster's own held writes to a line are applied before it reads the line at its home (R105). -/
def State.drainLine (s : State) (cluster l : Nat) : State :=
  match (s.sends.filter fun t => t.cluster == cluster && t.line == l).getLast? with
  | some t => s.drain t.stamp
  | none => s

/-- A read served at the home for an origin (R104, R108): the origin merges the stamp of the write it read. -/
def State.homeServe (s : State) (o l key : Nat) (chan : Bool) : (LineVal × Bool) × State :=
  let (r, s) := s.homeLine l key chan
  (r, { s with clocks := s.clocks.set o (clockMax (s.clock o) (s.lineStamp l)) })

/-- A read of a hart served at the home: the writes of its cluster to the line come first (R105). -/
def State.homeRead (s : State) (cluster l key : Nat) (chan : Bool) : (LineVal × Bool) × State :=
  (s.drainLine cluster l).homeServe (originOf cluster) l key chan

/-! ### The cluster cache -/

/-- The set of a line in a cluster cache (log 10). -/
def ccSet (l : Nat) : Nat := l % 2048

/-- A cluster-cache line goes out with its whole dirty mask (R44, R108). -/
def State.ccSend (s : State) (c : CLine) : State := s.send c.owner c.line c.key false c.data c.dirty c.poison

/-- A cluster-cache line is replaced: written back if dirty, and dropped. -/
def State.ccEvict (s : State) (c : CLine) : State :=
  let s := s.ccSend c
  { s with cc := cacheDrop s.cc c.owner c.line }

/-- A gathered line of cluster `o` beside a line that the cluster cache has just filled: it never returns an older value
than the ordinary line (R49, R106). An element that the line holds in part drops the gathered line, and so does an element of a poisoned
line, of which no ordinary access gets a value (R75). -/
def GLine.refresh (g : GLine) (o l : Nat) (d : LineVal) (bad : Bool) : Option GLine :=
  if g.owner ≠ o then some g else
    let inside (a : Nat) : Bool := 128 * l ≤ a && a + g.size ≤ 128 * (l + 1)
    let touches (a : Nat) : Bool := a < 128 * (l + 1) && 128 * l < a + g.size
    if g.elems.any (fun e => touches e.1 && (bad || !inside e.1)) then none
    else
      let put (e : Nat × Word) : Nat × Word :=
        if inside e.1 then (e.1, BitVec.ofNat 64 (lineGet d (e.1 % 128) g.size)) else e
      some { g with elems := g.elems.map put }

/-- The gathered lines of a cluster after an ordinary fill. -/
def State.refreshGath (s : State) (o l : Nat) (d : LineVal) (bad : Bool) : State :=
  { s with gath := s.gath.filterMap fun g => g.refresh o l d bad }

/-- A gathered line put in front as the most recently used one, in place of the one with its tag (R46). -/
def State.gathPut (s : State) (g : GLine) : State :=
  { s with gath := { g with age := s.nd } :: s.gath.filter fun h =>
      !(h.owner == g.owner && h.first == g.first && h.step == g.step && h.size == g.size && h.part == g.part && h.asid == g.asid) }

/-- Room in a set of cluster cache `o`: where its 16 ways are taken, the least recently used line leaves it, an ordinary or a
gathered one (R42, R47). A gathered line stands in the set of its first element's address (log 10). -/
def State.ccRoom (s : State) (o set : Nat) : State :=
  let ord := s.cc.filter fun c => c.owner == o && ccSet c.line == set
  let gat := s.gath.filter fun g => g.owner == o && ccSet (g.first / 128) == set
  if ord.length + gat.length < 16 then s else
    match gat.getLast?, ord.getLast? with
    | some g, some c => if g.age < c.age then { s with gath := s.gath.filter (· != g) } else s.ccEvict c
    | some g, none => { s with gath := s.gath.filter (· != g) }
    | none, some c => s.ccEvict c
    | none, none => s

/-- A line of a cluster cache as the most recently used one. -/
def State.ccPut (s : State) (c : CLine) : State := { s with cc := cachePut s.cc { c with age := s.nd } }

/-- The line of `l` in cluster cache `o`, filled or refetched from its home as R42 and R44 say. A refetched line whose 128 bytes
are all its own writes takes no poison from the home (R75). -/
def State.ccFetch (s : State) (o l key : Nat) : CLine × State :=
  match cacheFind s.cc o l with
  | some c =>
    if c.stale then
      let ((d, p), s) := s.homeRead o l c.key false
      let c := { c with data := mergeLine d c.data c.dirty, stale := false,
                        poison := (p && c.dirty != fullMask) || (c.poison && c.dirty != 0) }
      (c, (s.ccPut c).refreshGath o l c.data c.poison)
    else (c, s.ccPut c)
  | none =>
    let s := s.ccRoom o (ccSet l)
    let ((d, p), s) := s.homeRead o l key false
    let c : CLine := { owner := o, line := l, data := d, poison := p, key := key }
    (c, (s.ccPut c).refreshGath o l d p)

/-- Byte `k` of a mask, false outside the line. -/
def maskAt (m : ByteMask) (k : Int) : Bool := 0 ≤ k && k < 128 && m.getLsbD k.toNat

/-- R48 for one gathered line: a write of exactly an element's bytes updates it, and a write that overlaps an element in any other
way drops the line, as one does that leaves the ordinary line poisoned (R75). -/
def GLine.written (g : GLine) (o l : Nat) (d : LineVal) (mask : ByteMask) (bad : Bool) : Option GLine :=
  if g.owner ≠ o then some g else
    let touched (e : Nat × Word) : Bool := (List.range g.size).any fun k => maskAt mask ((e.1 + k : Nat) - (128 * l : Nat))
    let whole (e : Nat × Word) : Bool := e.1 / 128 == l && e.1 % 128 + g.size ≤ 128 && mask == byteSpan (e.1 % 128) g.size
    let put (e : Nat × Word) : Nat × Word :=
      if touched e then (e.1, BitVec.ofNat 64 (lineGet d (e.1 % 128) g.size)) else e
    if g.elems.all (fun e => !touched e || (whole e && !bad)) then some { g with elems := g.elems.map put }
    else none

/-- A write lands in a cluster cache (R42, R48): the line is allocated, the bytes merge, the writer's bit is set. -/
def State.ccWrite (s : State) (o h l key : Nat) (d : LineVal) (mask : ByteMask) (p : Bool) : State :=
  if mask = 0 then s else
    let (c, s) := s.ccFetch o l key
    let c := { c with data := mergeLine c.data d mask, dirty := c.dirty ||| mask,
                      writers := c.writers ||| (1#8 <<< h), poison := if mask = fullMask then p else c.poison || p }
    let s := s.ccPut c
    { s with gath := s.gath.filterMap fun g => g.written o l d mask c.poison }

/-! ### The scalar L1s -/

/-- The L1 of hart `h` of cluster `o`. -/
def l1Owner (o h : Nat) : Nat := 8 * o + h

/-- The set of a line in a scalar L1 (log 10). -/
def l1Set (l : Nat) : Nat := l % 32

/-- The dirty bytes of an L1 line go to the cluster cache (R41). -/
def State.l1WriteBack (s : State) (c : CLine) : State :=
  s.ccWrite (c.owner / 8) (c.owner % 8) c.line c.key c.data c.dirty c.poison

/-- An L1 line leaves its cache, its dirty bytes first (R41, R43). -/
def State.l1Evict (s : State) (c : CLine) : State :=
  let s := s.l1WriteBack c
  { s with l1 := cacheDrop s.l1 c.owner c.line }

/-- The line of `l` in the L1 of a hart, filled or refetched from the cluster cache (R41, R44). -/
def State.l1Fetch (s : State) (o h l key : Nat) : CLine × State :=
  let w := l1Owner o h
  match cacheFind s.l1 w l with
  | some c =>
    if c.stale then
      let (b, s) := s.ccFetch o l key
      let c := { c with data := mergeLine b.data c.data c.dirty, stale := false,
                        poison := (b.poison && c.dirty != fullMask) || (c.poison && c.dirty != 0) }
      (c, { s with l1 := cachePut s.l1 c })
    else (c, { s with l1 := cachePut s.l1 c })
  | none =>
    let s := match cacheVictim s.l1 w 4 l1Set l with
      | some v => s.l1Evict v
      | none => s
    let (b, s) := s.ccFetch o l key
    let c : CLine := { owner := w, line := l, data := b.data, poison := b.poison, key := key }
    (c, { s with l1 := cachePut s.l1 c })

/-- A scalar store into the L1 of a hart: write-allocate (R41). -/
def State.l1Write (s : State) (o h l key : Nat) (d : LineVal) (mask : ByteMask) : State :=
  let (c, s) := s.l1Fetch o h l key
  let c := { c with data := mergeLine c.data d mask, dirty := c.dirty ||| mask,
                    poison := c.poison && mask != fullMask }
  { s with l1 := cachePut s.l1 c }

/-- The duplicate tags: the line leaves all eight scalar L1s of the cluster (R43). -/
def State.dupTags (s : State) (o l : Nat) : State :=
  (s.l1.filter fun c => c.owner / 8 == o && c.line == l).foldl State.l1Evict s

/-! ### Acquire and release (R44) -/

/-- The scope is .d or wider. -/
def Scope.wide : Scope → Bool
  | .d | .v | .s => true
  | _ => false

/-- A wider release by hart `h` sends a line: the hart wrote it, or acquired at .c what was in it (R44, R115). -/
def CLine.owedBy (c : CLine) (o h : Nat) : Bool := c.owner == o && (c.writers ||| c.seen).getLsbD h

/-- A line whose dirty bytes have been sent. -/
def CLine.cleaned (c : CLine) : CLine := { c with dirty := 0, writers := 0, seen := 0 }

/-- The flits that the ports of a cluster's partition send are acknowledged: a release at .s waits for that, and for the repair or the
retrain that comes before (R131, R388; log 38). A port that has failed to retrain three times goes down instead. -/
def State.ackFlits (s : State) (o : Nat) : State :=
  let mine (l : Link) : Bool := l.up && s.parts.any fun (r : Part) => r.pclu.getLsbD o && r.plink.getLsbD l.port
  let s := ((s.links.filter fun (l : Link) => mine l && l.stuck && 3 ≤ l.retrains).map Link.port).foldl State.portDown s
  { s with outbox := s.outbox ++ (s.links.filter mine).flatMap Link.queue
           links := s.links.map fun (l : Link) => if mine l then l.settled else l }

/-- The cache actions of a release at `sc` by hart `h` of cluster `o` (R44), and the wait until its writes are applied at
their homes (R112) and its remote ones are acknowledged (R131). A store to a CA = 01 or CA = 10 page performs at no scope, .c
included, before it is applied there (R103). -/
def State.releaseCaches (s : State) (o h : Nat) (sc : Scope) : State :=
  if sc = .h then s else
    let s := (s.l1.filter fun c => c.owner == l1Owner o h && c.dirty != 0).foldl State.l1WriteBack s
    let s := { s with l1 := s.l1.map fun (c : CLine) => if c.owner == l1Owner o h then { c with dirty := 0 } else c }
    let s := (s.sends.filter fun (t : Send) => t.cluster == o && t.hart == some h).foldl State.ownDrain s
    if Scope.wide sc then
      let s := (s.cc.filter fun c => c.owedBy o h).foldl State.ccSend s
      let s := { s with cc := s.cc.map fun (c : CLine) => if c.owedBy o h then c.cleaned else c }
      let s := s.drain (s.clock (originOf o))
      if sc = .s then s.ackFlits o else s
    else s

/-- A line of an L1 after an acquire at .c or wider: dropped if it is clean, else stale (R44). -/
def CLine.acquired (c : CLine) : Option CLine := if c.dirty = 0 then none else some { c with stale := true }

/-- A line of a cluster cache after an acquire by hart `h` (R44): stale where the acquire is a wide one, and what other harts
have written there is from then on the hart's to pass on (R115). -/
def CLine.passed (c : CLine) (h : Nat) (wide : Bool) : CLine :=
  { c with stale := c.stale || wide, seen := if c.dirty = 0 then c.seen else c.seen ||| (1#8 <<< h) }

/-- The cache actions of an acquire at `sc` by hart `h` of cluster `o` (R44). -/
def State.acquireCaches (s : State) (o h : Nat) (sc : Scope) : State :=
  if sc = .h then s else
    { s with
      l1 := s.l1.filterMap fun c => if c.owner == l1Owner o h then c.acquired else some c
      cc := s.cc.map fun c => if c.owner == o then c.passed h (Scope.wide sc) else c
      gath := s.gath.map fun g => if g.owner == o && Scope.wide sc then { g with stale := true } else g }

end Sys2Proof.Machine
end

