-- ==== Sys2Proof/Machine/Translate.lean ====
section
/-! DEFINITION. The page walk and its checks in their order (01 R16-R22, R38, R40), cached translations (R22), the A and
DT bits (R21), and the two windows (R25-R27). -/

namespace Sys2Proof.Machine

/-- What an access asks of a page (R20). -/
inductive Acc where
  | read | write | discard | fetch
  deriving DecidableEq, Repr

/-- A cause code (R351): class x 64 + source x 8 + kind. -/
def causeCode (cls src kind : Nat) : Nat := 64 * cls + 8 * src + kind

/-- The key slot a line is held under where it is read without a key of its own: table pages carry no key field, so the
walker reads a line under the key it was written with (log 11). -/
def State.heldKey (s : State) (l : Nat) : Nat :=
  match cacheFind s.l2 (sliceOf l) l with
  | some c => c.key
  | none => match s.ktags.find? (fun t => t.line == l) with
    | some t => t.key
    | none => 0

/-- The line is read at its channel and not in an L2 slice (R55, R104). -/
def State.beneathL2 (s : State) (l : Nat) : Bool := !(inL2 l false && (cacheFind s.l2 (sliceOf l) l).isSome)

/-- The applied contents of a line at its home, without a fill (R104); an uncorrectable error of the stored line is poison (R74). -/
def State.peekLine (s : State) (l : Nat) : LineVal × Bool :=
  let stored :=
    let (d, p) := s.dramRead l (s.heldKey l)
    (d, p || s.latent.contains (l, true))
  match cacheFind s.l2 (sliceOf l) l with
  | some c => if inL2 l false then (c.data, c.poison) else stored
  | none => stored

/-- The walker reads an entry: it meets the errors of the entry's stored line (R73, R74). -/
def State.meetEntry (s : State) (pa : Nat) : State := if s.beneathL2 (pa / 128) then s.meet (pa / 128) else s

/-- The eight bytes at a physical address that is 8-byte aligned, as the home serves them, and the line's poison. -/
def State.peek8 (s : State) (pa : Nat) : Nat × Bool :=
  let (d, p) := s.peekLine (pa / 128)
  (lineGet d (pa % 128) 8, p)

/-- A write of `n` bytes within a line at its home, under the key the line is held with. -/
def State.poke (s : State) (pa n val : Nat) : State :=
  s.homeApply (pa / 128) (s.heldKey (pa / 128)) false (linePut 0 (pa % 128) n val) (byteSpan (pa % 128) n) false

/-- Index of a DRAM frame in the frame owner table (R37). -/
def frameIndex (f : Nat) : Nat := if f < 12582912 then f else 12582912 + (f - 0x2000000)

/-- The entry of a frame in the frame owner table (R37). -/
def State.frameByte (s : State) (f : Nat) : Byte :=
  match s.fot.find? (fun e => e.1 == frameIndex f) with
  | some e => e.2
  | none => 0

/-- A partition owns a frame of the DRAM tiers (R38). -/
def State.ownsFrame (s : State) (p f : Nat) : Bool :=
  (region (65536 * f) == .fast || region (65536 * f) == .cap) &&
    (let b := s.frameByte f
     b.getLsbD 7 && !b.getLsbD 6 && bits b 0 4 == p)

/-- An entry with V = 1 is malformed at a level (R19). -/
def malformed (e lvl : Nat) : Bool :=
  let x : Word := BitVec.ofNat 64 e
  let leaf := x.getLsbD 1
  let frame := bits x 16 34
  let r := region (65536 * frame)
  let dram := r == .fast || r == .cap
  if leaf then
    bits x 60 4 != 0 || lvl < 2 || (lvl == 2 && bits x 16 13 != 0) || r == .hole || r == .reserve
      || (r == .fast && x.getLsbD 9) || (r == .cap && !x.getLsbD 9) || (x.getLsbD 9 && !dram)
      || bits x 10 2 == 3 || (!dram && bits x 10 2 != 2) || (!dram && bits x 50 10 != 0)
      || (lvl == 2 && x.getLsbD 8)
  else bits x 50 14 != 0 || bits x 2 10 != 0 || lvl == 3 || !dram

/-- A leaf entry taken apart (R18). -/
def leafOf (e : Nat) (big : Bool) (entry : Nat) : Leaf :=
  let x : Word := BitVec.ofNat 64 e
  { frame := bits x 16 34, big := big, key := bits x 50 10, ca := bits x 10 2, tier := x.getLsbD 9, m := x.getLsbD 8,
    d := x.getLsbD 7, ns := x.getLsbD 6, dt := x.getLsbD 5, a := x.getLsbD 4, wr := x.getLsbD 3, rd := x.getLsbD 2,
    entry := entry }

/-- What a walk answers: a leaf, or class and kind of the fault and the table entry it concerns. -/
inductive Walked where
  | leaf (l : Leaf)
  | fault (cls kind : Nat) (entry : Option Nat)
  deriving DecidableEq, Repr

/-- Index of a VA at a level (R20). -/
def walkIndex (va lvl : Nat) : Nat :=
  match lvl with
  | 1 => va / 2 ^ 42 % 2 ^ 13
  | 2 => va / 2 ^ 29 % 2 ^ 13
  | _ => va / 2 ^ 16 % 2 ^ 13

/-- The loop of R20 from level `lvl` with the entry at `ea`. -/
def State.walkFrom (s : State) (p va : Nat) : Nat → Nat → Nat → Walked
  | 0, _, _ => .fault 1 3 none
  | fuel + 1, lvl, ea =>
    let (e, bad) := s.peek8 ea
    if bad then .fault 3 1 (some ea)
    else if e % 2 = 0 then .fault 1 2 none
    else if malformed e lvl then .fault 1 3 none
    else if e / 2 % 2 = 1 then .leaf (leafOf e (lvl == 2) ea)
    else
      let f := e / 65536 % 2 ^ 34
      if !s.ownsFrame p f then .fault 1 4 none
      else s.walkFrom p va fuel (lvl + 1) (65536 * f + 8 * walkIndex va (lvl + 1))

/-- The entries that the loop of R20 reads: the level and the address of each. -/
def State.walkEntries (s : State) (p va : Nat) : Nat → Nat → Nat → List (Nat × Nat)
  | 0, _, _ => []
  | fuel + 1, lvl, ea =>
    let (e, bad) := s.peek8 ea
    let f := e / 65536 % 2 ^ 34
    (lvl, ea) :: (if bad || e % 2 == 0 || malformed e lvl || e / 2 % 2 == 1 || !s.ownsFrame p f then []
      else s.walkEntries p va fuel (lvl + 1) (65536 * f + 8 * walkIndex va (lvl + 1)))

/-- The frames of a leaf are the partition's (R38). -/
def State.ownsLeaf (s : State) (p : Nat) (l : Leaf) : Bool :=
  if l.big then (List.range 8192).all fun k => s.ownsFrame p (l.frame + k) else s.ownsFrame p l.frame

/-- A key slot is allotted to the partition (R40). -/
def State.keyAllotted (s : State) (p key : Nat) : Bool :=
  s.keys.any fun k => k.id == key && k.part == some p

/-- The partition's policy forbids a region beyond DRAM (R20, R383, R384). -/
def State.policyForbids (s : State) (p : Nat) (r : Region14) : Bool :=
  let pol := (s.partReg p).ppol
  match r with
  | .device => !pol.getLsbD 10
  | .root => !pol.getLsbD 8
  | .remote => !pol.getLsbD 9
  | _ => true

/-- A leaf allows an access (R20, R36). -/
def leafDenies (l : Leaf) (acc : Acc) : Option (Nat × Nat) :=
  if (acc = .read ∨ acc = .fetch) ∧ !l.rd then some (2, 0)
  else if (acc = .write ∨ acc = .discard) ∧ !l.wr then some (2, 1)
  else if acc = .write ∧ l.d then some (1, 5)
  else none

/-- The first address of the windows (R12). -/
def windowBase : Nat := 0x7FF00000000000

/-- A canonical address of the window region (R27). -/
def windowed (va : Nat) : Bool := windowBase ≤ va && va < 2 ^ 55

/-- The frames, the key and the policy of a leaf, in the order of R20. -/
def State.checkLeaf (s : State) (p : Nat) : Walked → Walked
  | .fault c k e => .fault c k e
  | .leaf l =>
    let r := region (65536 * l.frame)
    let dram := r == .fast || r == .cap
    if dram && !s.ownsLeaf p l then .fault 1 4 none
    else if dram && !s.keyAllotted p l.key then .fault 2 4 none
    else if !dram && s.policyForbids p r then .fault 2 5 none
    else .leaf { l with part := p }

/-- The permissions of a leaf, the last checks of R20. -/
def Walked.permit (acc : Acc) : Walked → Walked
  | .fault c k e => .fault c k e
  | .leaf l => match leafDenies l acc with
    | some (c, k) => .fault c k none
    | none => .leaf l

/-- The walk of R20 for an address below the windows, as far as the leaf's own permissions. -/
def State.walkLeaf (s : State) (p asid va : Nat) : Walked :=
  let td := (s.partReg p).tdirb.toNat
  if !s.ownsFrame p (td / 65536) then .fault 1 4 none else s.checkLeaf p (s.walkFrom p va 4 0 (td + 8 * asid))

/-- The walk of R20 for an address below the windows, with every check in its order. -/
def State.walk (s : State) (p asid va : Nat) (acc : Acc) : Walked := (s.walkLeaf p asid va).permit acc

/-- Two leaves that translate alike: all but A and DT (R22). -/
def Leaf.same (a b : Leaf) : Bool := { a with a := false, dt := false } == { b with a := false, dt := false }

/-- The part of an address that chooses the table of a level (R20). -/
def walkPrefix (va lvl : Nat) : Nat :=
  match lvl with
  | 2 => va / 2 ^ 42
  | 3 => va / 2 ^ 29
  | _ => 0

/-- A cached table pointer covers an address (R22). -/
def WalkPtr.covers (w : WalkPtr) (cluster p asid va : Nat) : Bool :=
  w.owner == cluster && w.part == p && w.asid == asid && w.pre == walkPrefix va w.lvl

/-- A cached translation of a page may serve an access without a new walk (R22): it permits it, it needs no A or DT update, and
its frames, its key and its region are still the partition's to use (R38, R40, R384). -/
def State.usableTlb (s : State) (cluster p asid va : Nat) (acc : Acc) (t : Tlb) : Bool :=
  t.owner == cluster && t.part == p && t.asid == asid
    && (if t.leaf.big then t.page / 8192 == va / 2 ^ 29 else t.page == va / 65536) && (leafDenies t.leaf acc).isNone
    && t.leaf.a && t.period == s.period && (acc != .write || t.leaf.dt)
    && (match s.checkLeaf p (.leaf t.leaf) with
        | .leaf _ => true
        | .fault .. => false)

/-- The leaf found from a cached table pointer, as a fresh walk would check it (R22). -/
def State.walkPast (s : State) (p va : Nat) (acc : Acc) (w : WalkPtr) : Option Leaf :=
  if !s.ownsFrame p w.frame then none
  else match (s.checkLeaf p (s.walkFrom p va 3 w.lvl (65536 * w.frame + 8 * walkIndex va w.lvl))).permit acc with
    | .leaf l => some l
    | .fault .. => none

/-- A cached leaf serves an access as the fresh walk does: no choice between the two can be seen (R22). -/
def Walked.agrees (acc : Acc) (l : Leaf) : Walked → Bool
  | .leaf m => m.same l && m.a == l.a && (acc != .write || m.dt == l.dt)
  | .fault .. => false

/-- The leaves that differ from the fresh walk and that a cached copy may still deliver for an access (R22). -/
def State.oldLeaves (s : State) (cluster p asid va : Nat) (acc : Acc) : List Leaf :=
  (((s.tlb.filter (s.usableTlb cluster p asid va acc)).map fun t => t.leaf)
    ++ (s.walks.filter fun w => w.covers cluster p asid va).filterMap (s.walkPast p va acc)).filter
      fun l => !(s.walk p asid va acc).agrees acc l

/-- A walk that ends at a leaf of 512 MiB. -/
def Walked.big : Walked → Bool
  | .leaf l => l.big
  | .fault .. => false

/-- The free choice between the fresh walk and the old leaves that may still serve (R22): one for each page of 512 MiB among the
entries of such pages, then one for each page of 64 KiB between that entry and those of the page. -/
def State.chooseLeaf (s : State) (fresh : Walked) (old : List Leaf) (va : Nat) : Walked :=
  let all := fresh :: old.map Walked.leaf
  let bigs := all.filter Walked.big
  let big := (bigs[Config.pick s.nd (2 ^ 48 + va / 2 ^ 29) % bigs.length]?).toList
  let here := big ++ all.filter fun w => !w.big
  here.getD (Config.pick s.nd (1000000 + va / 65536) % here.length) fresh

/-- Translation of one page for one access of a unit of `cluster` (R20, R22). A fault comes only from a fresh walk. An old entry
that a translation cache, a stream register or a walk cache still holds may serve the access until a `pte.inv` covers it: which
one does is free, and one for each page and instruction. -/
def State.translate (s : State) (cluster p asid va : Nat) (acc : Acc) : Walked :=
  let old := s.oldLeaves cluster p asid va acc
  if old.isEmpty then s.walk p asid va acc else s.chooseLeaf (s.walk p asid va acc) old va

/-- The entries that a fresh walk reads: their levels and addresses. -/
def State.walkTrace (s : State) (p asid va : Nat) : List (Nat × Nat) :=
  let td := (s.partReg p).tdirb.toNat
  if s.ownsFrame p (td / 65536) then s.walkEntries p va 4 0 (td + 8 * asid) else []

/-- The table pointers of a walk enter the walk cache of a cluster (R22), each beside what the cache holds already. -/
def State.cacheWalk (s : State) (cluster p asid va : Nat) : State :=
  (s.walkTrace p asid va).foldl (fun s (lvl, ea) =>
    let e := (s.peek8 ea).1
    let w : WalkPtr := { owner := cluster, part := p, asid := asid, lvl := lvl + 1, pre := walkPrefix va (lvl + 1),
                         frame := e / 65536 % 2 ^ 34 }
    if e / 2 % 2 = 1 || e % 2 = 0 || s.walks.contains w then s else { s with walks := w :: s.walks }) s

/-- A translation enters a cache of a cluster, or a stream register (R22, R32): it takes the place of a copy that serves no more
than it does, and an old copy of another entry stays until a `pte.inv` covers it. -/
def State.cacheLeaf (s : State) (t : Tlb) : State :=
  { s with tlb := t :: s.tlb.filter fun u =>
      !(u.owner == t.owner && u.part == t.part && u.asid == t.asid && u.page == t.page && u.stream == t.stream
        && u.leaf.same t.leaf && (!u.leaf.dt || t.leaf.dt)) }

/-- The walker's reads of table entries meet the errors of their lines (R73, R74). -/
def State.meetWalk (s : State) (p asid va : Nat) : State :=
  if s.latent.isEmpty then s else (s.walkTrace p asid va).foldl (fun s e => s.meetEntry e.2) s

/-- A walk that came to nothing met the errors of the entries that it read (R73, R74); an address of the windows has none. -/
def State.walkMet (s : State) (p asid va : Nat) : State := if windowBase ≤ va then s else s.meetWalk p asid va

/-- A leaf is used (R21): A, and DT for a write, are set in its entry at home, and the translation is cached (R22). -/
def State.useLeaf (s : State) (cluster p asid va : Nat) (acc : Acc) (l : Leaf) : State :=
  let w := acc == .write
  let s := (s.meetWalk p asid va).cacheWalk cluster p asid va
  let s := if l.a && (!w || l.dt) then s else
    let e := (s.peek8 l.entry).1
    let x : Word := BitVec.ofNat 64 e
    s.poke l.entry 1 ((x ||| 0x10 ||| (if w then 0x20 else 0)).toNat % 256)
  s.cacheLeaf { owner := cluster, part := p, asid := asid, page := va / 65536,
                leaf := { l with a := true, dt := l.dt || w }, period := s.period }

/-- A page's translation is held ahead of its use (R32): neither A nor DT is set, and no fault is raised. Its walk reads its entries as
any other (R73, R74). -/
def State.foresee (s : State) (cluster p asid stream page : Nat) : State :=
  if windowBase ≤ 65536 * page then s
  else
    let s := s.meetWalk p asid (65536 * page)
    match s.walk p asid (65536 * page) .read with
    | .fault .. => s
    | .leaf l => s.cacheLeaf { owner := cluster, part := p, asid := asid, page := page, leaf := l, period := s.period,
                               stream := some stream }

/-! ### Beyond the module (R131, R388) -/

/-- Bytes that an agent beyond the module supplies: a free value (log 12). -/
def freeBytes (nd pa n : Nat) : Nat :=
  let line : LineVal := (List.range 16).foldl (fun (a : LineVal) k =>
    a ||| ((Config.word nd (2 ^ 50 + pa / 128 * 16 + k)).setWidth 1024 <<< (64 * k))) 0
  lineGet line (pa % 128) n

/-- A read within one line beyond the module: free bytes, poisoned where no port leads there (R388). -/
def State.readBeyond (s : State) (p pa n : Nat) : (Nat × Bool) × State :=
  ((freeBytes s.nd pa n, s.cutOff p pa), { s with nd := s.nd + 1 })

/-- The physical address of a VA under a leaf (R20). -/
def Leaf.pa (l : Leaf) (va : Nat) : Nat :=
  65536 * l.frame + (if l.big then va % 2 ^ 29 else va % 65536)

/-! ### Windows -/

/-- A scratchpad tile; one that is not listed is free, of partition 0, and cleared, as a reset leaves it (R50). -/
def State.tile (s : State) (cluster n : Nat) : Tile :=
  match s.tiles.find? (fun t => t.cluster == cluster && t.n == n) with
  | some t => t
  | none => { cluster := cluster, n := n, owner := 0, clear := true }

/-- A tile's owner field and cleared mark written (R50, R54). -/
def State.setTile (s : State) (t : Tile) : State :=
  { s with tiles := t :: s.tiles.filter fun u => !(u.cluster == t.cluster && u.n == t.n) }

/-- KIND of an owner field (R50). -/
def tileKind (o : BitVec 32) : Nat := bits o 30 2

/-- NODE of an owner field (R50). -/
def tileNode (o : BitVec 32) : Nat := bits o 0 16

/-- PART of an owner field (R50). -/
def tilePart (o : BitVec 32) : Nat := bits o 24 4

/-- An owner field (R50). -/
def ownerField (kind eng part reg node : Nat) : BitVec 32 :=
  BitVec.ofNat 32 (kind * 2 ^ 30 + eng * 2 ^ 28 + part * 2 ^ 24 + reg * 2 ^ 16 + node)

/-- The address in the tile space of byte `off` of tile `n` of a cluster. -/
def tileAddr (cluster n off : Nat) : Nat := (cluster * 128 + n) * 65536 + off

/-- The slices a partition owns, in increasing order (R26, R56). -/
def State.partSlices (s : State) (p : Nat) : List Nat :=
  (List.range 384).filter fun k => (s.partReg p).poct.getLsbD (k / 8)

/-- Where an address leads: a page, a tile byte of the cluster, or a byte of a slice's scratch (R20, R25, R26). -/
inductive Loc where
  | page (l : Leaf) (pa : Nat)
  | tile (n off : Nat)
  | scratch (addr : Nat)
  deriving DecidableEq, Repr

/-- Why an address leads nowhere: class, kind and the table entry, or a wait (a write to a migrating page, R35, or the
conversion of the scratch window, R57). -/
inductive NoLoc where
  | fault (cls kind : Nat) (entry : Option Nat)
  | wait
  deriving DecidableEq, Repr

/-- The windows for a data access of the context of ready-pool slot `slot` (R25, R26). -/
def State.window (s : State) (cluster p slot va : Nat) : Except NoLoc Loc :=
  if va < 0x7FF00000800000 then
    let o := va - windowBase
    let w := (s.tile cluster (o / 65536)).owner
    if tileKind w = 1 ∧ tileNode w = slot then .ok (.tile (o / 65536) (o % 65536))
    else if tileKind w = 3 then .error (.fault 2 3 none) else .error (.fault 2 2 none)
  else if 0x7FF80000000000 ≤ va ∧ va < 0x7FF80040000000 then
    let o := va - 0x7FF80000000000
    let r := (s.partReg p).l2scr
    if r.getLsbD 31 then .error .wait else
    let c := bits r 0 4 * 65536
    let sl := s.partSlices p
    if c = 0 ∨ sl.length * c ≤ o then .error (.fault 1 1 none)
    else .ok (.scratch (sl.getD (o / c) 0 * 2 ^ 20 + o % c))
  else .error (.fault 1 1 none)

/-- The place of an address for an access (R12, R20, R25-R27): `win` says whether the access may use the windows. -/
def State.locate (s : State) (cluster p asid slot : Nat) (win : Bool) (va : Nat) (acc : Acc) : Except NoLoc Loc :=
  if 2 ^ 55 ≤ va then .error (.fault 1 0 none)
  else if windowBase ≤ va then
    if win then s.window cluster p slot va else .error (.fault 1 7 none)
  else
    match s.translate cluster p asid va acc with
    | .fault c k e => .error (.fault c k e)
    | .leaf l => if l.m && acc == .write then .error .wait else .ok (.page l (l.pa va))

end Sys2Proof.Machine
end

