-- ==== Sys2Proof/Machine/Access.lean ====
section
/-! DEFINITION. Data accesses of the context in focus at the place that cacheability and the windows give (01 R23, R25,
R26; 05 R102-R105), with acquire, release and the scope cap (05 R112, R113, R116, R129). -/

namespace Sys2Proof.Machine

/-! ### The context in focus -/

/-- The context in focus changed. -/
def State.mapCur (s : State) (f : Ctx → Ctx) : State := { s with cur := f s.cur }

/-- Control register `n` of a context (R360). -/
def Ctx.cr (c : Ctx) (n : Nat) : Word := c.creg.getD n 0

/-- Control register `n` of a context written whole: the granule of CTLB that holds it is in the register file again (R151, R361). -/
def Ctx.setCr (c : Ctx) (n : Nat) (x : Word) : Ctx :=
  { c with creg := c.creg.setIfInBounds n x, evicted := c.evicted.filter fun e => e.1 != 4 + n / 8 }

/-- ctl.asid (R13). -/
def Ctx.asid (c : Ctx) : Nat := bits (c.cr 22) 0 12

/-- The grant L in lanes (R142). -/
def Ctx.lanes (c : Ctx) : Nat := min (c.cr 1).toNat 32

/-- Granules of the image that a context has written are in its register file again, whatever it wrote (R151, R153). -/
def Ctx.rewrote (c : Ctx) (gs : Nat → Bool) : Ctx := { c with evicted := c.evicted.filter fun e => !gs e.1 }

/-- The first granule of a register in the image of `l` lanes, and its granules (R150, R361). -/
def regGranules (l : Nat) : PReg → Nat × Nat
  | .s n => (16 + n / 8, 1)
  | .v n => (512 + l * n, l)
  | .m n => (32 + 16 * n, 16)
  | .c n => (4 + n / 8, 1)
  | .q n => (288 + 2 * n, 1)
  | .t n => (512 + 64 * l + 16 * l * n, 16 * l)

/-- Granule `g` is one of those of a register that `hit` names, counted from its first. -/
def regHit (l : Nat) (r : PReg) (hit : Nat → Bool) (g : Nat) : Bool :=
  let (a, k) := regGranules l r
  a ≤ g && g < a + k && hit (g - a)

/-- vl as a number (R231). -/
def Ctx.vl (c : Ctx) : Nat := (c.cr 0).toNat

/-- estart as a number (R236). -/
def Ctx.estart (c : Ctx) : Nat := (c.cr 2).toNat

/-! ### Lines at their place -/

/-- A whole line read by a context's access to a page (R23, R42, R43, R103); `vec` for a vector access. -/
def State.lineRead (s : State) (o h : Nat) (vec : Bool) (l : Leaf) (line : Nat) : (LineVal × Bool) × State :=
  if l.ca = 0 then
    if vec then
      let s := s.dupTags o line
      let (c, s) := s.ccFetch o line l.key
      ((c.data, c.poison), s)
    else
      let (c, s) := s.l1Fetch o h line l.key
      ((c.data, c.poison), s)
  else s.homeRead o line l.key (l.ca == 2)

/-- The bytes of `d` under the mask stored by a context's access to a page (R23, R42, R43, R103, R108). -/
def State.lineWrite (s : State) (o h : Nat) (vec : Bool) (l : Leaf) (line : Nat) (d : LineVal) (mask : ByteMask)
    (p : Bool := false) : State :=
  if l.ca = 0 then
    if vec then (s.dupTags o line).ccWrite o h line l.key d mask p
    else s.l1Write o h line l.key d mask
  else s.send o line l.key (l.ca == 2) d mask p (some h)

/-- A gathered line of cluster `o` holds an element that touches line `l` (R48, R49). -/
def GLine.touches (g : GLine) (o l : Nat) : Bool :=
  g.owner == o && g.elems.any fun e => e.1 < 128 * (l + 1) && 128 * l < e.1 + g.size

/-- A line of a page is refetched on its next access, as an acquire at `sc` requires of its own read (R113): the gathered lines
with an element in it as well as the ordinary ones (R49). -/
def State.freshen (s : State) (o h line : Nat) (sc : Scope) : State :=
  if sc = .h then s else
    let mark (w : Nat) (c : CLine) : CLine := if CLine.isAt w line c then { c with stale := true } else c
    let s := { s with l1 := s.l1.map (mark (l1Owner o h)) }
    if Scope.wide sc then
      { s with cc := s.cc.map (mark o), gath := s.gath.map fun g => if g.touches o line then { g with stale := true } else g }
    else s

/-- The discarded-read counter of a partition advanced by `n` lines (R36). -/
def State.countDiscarded (s : State) (p n : Nat) : State :=
  { s with parts := s.parts.setIfInBounds p { s.partReg p with drcnt := (s.partReg p).drcnt + BitVec.ofNat 48 n } }

/-- `n` bytes read at a place that a translation gave, within one line (R25, R26, R36, R103), and whether the line or block
is poisoned. A word beyond the module is a free value (log 12). -/
def State.readAt (s : State) (o h : Nat) (vec : Bool) (loc : Loc) (n : Nat) : (Nat × Bool) × State :=
  match loc with
  | .tile t off =>
    let a := tileAddr o t off
    ((lineGet (s.tmem.line (a / 128)) (a % 128) n, s.tmem.poisoned (a / 128)), s)
  | .scratch a => ((s.l2s.get a n, s.l2s.poisoned (a / 128)), s)
  | .page l pa =>
    if l.d then ((0, false), s) else
    match region pa with
    | .fast | .cap =>
      let ((d, p), s) := s.lineRead o h vec l (pa / 128)
      ((lineGet d (pa % 128) n, p), s)
    | _ => (s.drainLine o (pa / 128)).readBeyond l.part pa n

/-- The bytes of the line-sized value `d` under the mask written at a place within one line (R25, R26, R103); a write to a
root port, to a remote module or to LAUNCH and INTPOST leaves for its target (R108, R131, R383). `p` says that the data are
poisoned (R282, R296). -/
def State.writeAt (s : State) (o h : Nat) (vec : Bool) (loc : Loc) (d : LineVal) (mask : ByteMask) (p : Bool := false) :
    State :=
  match loc with
  | .tile t off => { s with tmem := s.tmem.merge (tileAddr o t off / 128) d mask p }
  | .scratch a => { s with l2s := s.l2s.merge (a / 128) d mask p }
  | .page l pa =>
    match region pa with
    | .fast | .cap => s.lineWrite o h vec l (pa / 128) d mask p
    | _ => s.sendOut o (some h) l pa d mask p

/-- A hart access to the device-register region that R383 does not permit (R352): only LAUNCH and INTPOST of the
partition's own block, written whole, while DR = 1. -/
def State.deviceDenied (s : State) (p : Nat) (loc : Loc) (acc : Acc) (n : Nat) : Bool :=
  match loc with
  | .page _ pa =>
    region pa == .device &&
      !(acc == .write && (s.partReg p).ppol.getLsbD 10 && n == 8 &&
        (pa == 0x40000010000 + 65536 * p + 0x108 || pa == 0x40000010000 + 65536 * p + 0x148))
  | _ => false

/-- The policy comes before the permissions of a leaf and before a wait for its migration (R20, R35): an access to the
device-register region that R383 does not permit faults with class 2, kind 5, whatever RD, WR, D and M say. -/
def State.policyFirst (s : State) (p asid va : Nat) (acc : Acc) (n : Nat) (e : NoLoc) : NoLoc :=
  if windowBase ≤ va then e
  else match s.walkLeaf p asid va with
    | .leaf l => if s.deviceDenied p (.page l (l.pa va)) acc n then .fault 2 5 none else e
    | .fault .. => e

/-- The place of a hart's access of `n` bytes, with the check of R383 where R20 has it. Where an old entry (R22) leads to device
registers that the access may not reach, the fresh walk decides. -/
def State.reach (s : State) (c : Ctx) (win : Bool) (va : Nat) (acc : Acc) (n : Nat) : Except NoLoc Loc :=
  match s.locate c.cluster c.part c.asid c.slot win va acc with
  | .error e => .error (s.policyFirst c.part c.asid va acc n e)
  | .ok loc =>
    if !s.deviceDenied c.part loc acc n then .ok loc
    else match s.walk c.part c.asid va acc with
      | .fault k x e => .error (s.policyFirst c.part c.asid va acc n (.fault k x e))
      | .leaf l =>
        if s.deviceDenied c.part (.page l (l.pa va)) acc n then .error (.fault 2 5 none)
        else if l.m && acc == .write then .error .wait else .ok (.page l (l.pa va))

/-- The pieces of `n` bytes at `a` that each lie in one line: address and length. -/
def pieces (a n : Nat) : List (Nat × Nat) :=
  let r := 128 - a % 128
  if n ≤ r then [(a, n)] else [(a, r), ((a + r) % 2 ^ 64, n - r)]

/-- Every piece located for the context in focus, in order; the first that leads nowhere decides (R31). -/
def State.locateAll (s : State) (win : Bool) (acc : Acc) : List (Nat × Nat) → Except (Nat × NoLoc) (List (Nat × Nat × Loc))
  | [] => .ok []
  | (a, n) :: r =>
    match s.reach s.cur win a acc n with
    | .error e => .error (a, e)
    | .ok loc => (s.locateAll win acc r).map fun rest => (a, n, loc) :: rest

/-- A and DT set and translations cached for every page the pieces use (R21, R33). -/
def State.useAll (s : State) (acc : Acc) (ps : List (Nat × Nat × Loc)) : State :=
  ps.foldl (fun s p => match p.2.2 with
    | .page l _ => s.useLeaf s.cur.cluster s.cur.part s.cur.asid p.1 acc l
    | _ => s) s

/-- The walks of pages that an access which ended in a cause had made (R73, R74). -/
def State.walked (s : State) (vas : List Nat) : State :=
  if s.latent.isEmpty then s
  else ((vas.map (· / 65536)).eraseDups).foldl (fun s pg => s.walkMet s.cur.part s.cur.asid (65536 * pg)) s

/-- The distinct lines of discarded pages among the pieces (R36). -/
def discardedLines (ps : List (Nat × Nat × Loc)) : Nat :=
  ((ps.filterMap fun p => match p.2.2 with
    | .page l pa => if l.d then some (pa / 128) else none
    | _ => none).eraseDups).length

/-- The bytes of located pieces read in order as one little-endian number, and the address of the first poisoned line with
the kind of its cause: 0 a memory line, 2 a scratchpad block (R75, R76). -/
def State.readPieces (s : State) (o h : Nat) (vec : Bool) :
    List (Nat × Nat × Loc) → (Nat × Option (Nat × Nat)) × State
  | [] => ((0, none), s)
  | (a, n, loc) :: r =>
    let ((x, p), s) := s.readAt o h vec loc n
    let ((y, q), s) := s.readPieces o h vec r
    let kind := match loc with
      | .tile .. => 2
      | _ => 0
    ((x + 2 ^ (8 * n) * y, if p then some (a / 128 * 128, kind) else q), s)

/-- A number written over located pieces, low bytes first. -/
def State.writePieces (s : State) (o h : Nat) (vec : Bool) (x : Nat) : List (Nat × Nat × Loc) → State
  | [] => s
  | (a, n, loc) :: r =>
    let s := s.writeAt o h vec loc (linePut 0 (a % 128) n x) (byteSpan (a % 128) n)
    s.writePieces o h vec (x / 2 ^ (8 * n)) r

/-! ### Stores of many elements -/

/-- What a store writes within one line or block. -/
structure LineWrite where
  loc    : Loc
  data   : LineVal
  mask   : ByteMask
  poison : Bool
  deriving DecidableEq, Repr

/-- A place in memory, a tile or the scratch; the words beyond them leave one by one. -/
def Loc.held : Loc → Bool
  | .page _ pa => region pa == .fast || region pa == .cap
  | _ => true

/-- The line or block of a place. -/
def Loc.base : Loc → Loc
  | .tile n off => .tile n (off / 128 * 128)
  | .scratch a => .scratch (a / 128 * 128)
  | .page l pa => .page l (pa / 128 * 128)

/-- The offset of a place in its line or block. -/
def Loc.off : Loc → Nat
  | .tile _ off => off % 128
  | .scratch a => a % 128
  | .page _ pa => pa % 128

/-- Two places lie in one line of memory or one block, by whatever pages they are reached. -/
def Loc.sameLine (a b : Loc) : Bool :=
  match a, b with
  | .tile n x, .tile m y => n == m && x / 128 == y / 128
  | .scratch x, .scratch y => x / 128 == y / 128
  | .page _ x, .page _ y => x / 128 == y / 128
  | _, _ => false

/-- Two places in one line are written in one way: under one key and cacheability. -/
def Loc.sameWay (a b : Loc) : Bool :=
  match a, b with
  | .page l _, .page m _ => l.key == m.key && l.ca == m.ca
  | _, _ => true

/-- A write of a line joined to the last write of that line, where the two go the same way; none where they cannot be one. -/
def joinWrite (w : LineWrite) : List LineWrite → Option (List LineWrite)
  | [] => none
  | v :: r =>
    if r.any fun u => u.loc.sameLine w.loc then (joinWrite w r).map (v :: ·)
    else if v.loc.sameLine w.loc && v.loc.sameWay w.loc then
      some ({ v with data := mergeLine v.data w.data w.mask, mask := v.mask ||| w.mask, poison := v.poison || w.poison } :: r)
    else none

/-- Bytes added to what a store writes: a store of all 128 bytes of a line is one write of it (R75), and the writes of a line stay in
the order of the elements (R105). -/
def addBytes (ws : List LineWrite) (loc : Loc) (n x : Nat) (p : Bool) : List LineWrite :=
  let w : LineWrite := { loc := loc.base, data := linePut 0 loc.off n x, mask := byteSpan loc.off n, poison := p }
  if !loc.held then ws ++ [{ w with loc := loc }] else (joinWrite w ws).getD (ws ++ [w])

/-- The bytes of located pieces added to what a store writes, low bytes first. -/
def addPieces (p : Bool) : Nat → List (Nat × Nat × Loc) → List LineWrite → List LineWrite
  | _, [], ws => ws
  | x, (_, n, loc) :: r, ws => addPieces p (x / 2 ^ (8 * n)) r (addBytes ws loc n x p)

/-- Everything that a vector store writes, line by line. DESIGN CHOICE: the elements of a store that lie in one line are one write of it,
for the gathered lines too (R48, log 91). -/
def State.writeLines (s : State) (o h : Nat) (ws : List LineWrite) : State :=
  ws.foldl (fun s (w : LineWrite) => s.writeAt o h true w.loc w.data w.mask w.poison) s

/-! ### Scopes -/

/-- The scope as the partition's cap leaves it (R129): an access at .s in a capped partition performs at .v and sets
DEMOTED. -/
def State.demote (s : State) (sc : Scope) : Scope × State :=
  if sc = .s ∧ bits (s.cur.cr 21) 0 3 = 3 then
    (.v, s.mapCur fun c => c.setCr 21 (c.cr 21 ||| 0x100))
  else (sc, s)

/-- A release by the context in focus (R112): every earlier access performs at the scope. -/
def State.release (s : State) (sc : Scope) : State := s.releaseCaches s.cur.cluster s.cur.hart sc

/-- An acquire by the context in focus (R113): later reads are served at the scope. -/
def State.acquire (s : State) (sc : Scope) : State := s.acquireCaches s.cur.cluster s.cur.hart sc

end Sys2Proof.Machine
end

