-- ==== Sys2Proof/Machine/Float.lean ====
section
/-! DEFINITION. Number formats and floating-point arithmetic, computed exactly and rounded once (09 R191-R211, 10
R218-R220, 11 R243-R246). A finite value is a sign, a natural significand and a power of two. -/

namespace Sys2Proof.Machine

/-- The five sticky flags NV DZ OF UF NX, in the order of ctl.fflags (R197). -/
abbrev Flags := BitVec 5

/-- Invalid operation (R197). -/
def fNV : Flags := 16
/-- Division by zero (R197). -/
def fDZ : Flags := 8
/-- Overflow or saturation (R197). -/
def fOF : Flags := 4
/-- Tiny and inexact (R197). -/
def fUF : Flags := 2
/-- Inexact (R197). -/
def fNX : Flags := 1

/-- Where a format keeps NaN: with the infinities, in one pattern, or nowhere (R191). -/
inductive NanKind where
  | ieee | top | none
  deriving DecidableEq, Repr

/-- A floating-point format: exponent and fraction widths, bias, and its NaN and infinity patterns (R191). -/
structure Fmt where
  eb   : Nat
  mb   : Nat
  bias : Nat
  nan  : NanKind
  deriving DecidableEq, Repr

/-- FP32 (R191). -/
def fmtF32 : Fmt := ⟨8, 23, 127, .ieee⟩

/-- The format of a floating type (R191); FP32 for a type that is not floating. -/
def fmtOf : Ty → Fmt
  | .f16 => ⟨5, 10, 15, .ieee⟩
  | .bf16 => ⟨8, 7, 127, .ieee⟩
  | .e4m3 => ⟨4, 3, 7, .top⟩
  | .e5m2 => ⟨5, 2, 15, .ieee⟩
  | .e3m2 => ⟨3, 2, 3, .none⟩
  | .e2m3 => ⟨2, 3, 1, .none⟩
  | .e2m1 => ⟨2, 1, 1, .none⟩
  | _ => fmtF32

/-- A value: NaN, an infinity, or sign, significand and power of two. A zero keeps its sign. -/
inductive FVal where
  | nan
  | inf (neg : Bool)
  | fin (neg : Bool) (m : Nat) (e : Int)
  deriving DecidableEq, Repr

/-- The pattern without its sign that is the largest finite value (R191). -/
def Fmt.maxCode (f : Fmt) : Nat :=
  match f.nan with
  | .ieee => (2 ^ f.eb - 1) * 2 ^ f.mb - 1
  | .top => 2 ^ (f.eb + f.mb) - 2
  | .none => 2 ^ (f.eb + f.mb) - 1

/-- The sign bit's weight. -/
def Fmt.signBit (f : Fmt) : Nat := 2 ^ (f.eb + f.mb)

/-- A pattern with a sign. -/
def Fmt.signed (f : Fmt) (neg : Bool) (code : Nat) : Nat := if neg then f.signBit + code else code

/-- The pattern of an infinity in the formats that have one (R191). -/
def Fmt.infCode (f : Fmt) (neg : Bool) : Nat := f.signed neg ((2 ^ f.eb - 1) * 2 ^ f.mb)

/-- The value of a pattern (R191); bits above the format are ignored (R192). -/
def decodeFp (f : Fmt) (x : Nat) : FVal :=
  let mant := x % 2 ^ f.mb
  let ex := x / 2 ^ f.mb % 2 ^ f.eb
  let neg := x / f.signBit % 2 == 1
  if f.nan = .ieee ∧ ex = 2 ^ f.eb - 1 then (if mant = 0 then .inf neg else .nan)
  else if f.nan = .top ∧ ex = 2 ^ f.eb - 1 ∧ mant = 2 ^ f.mb - 1 then .nan
  else if ex = 0 then .fin neg mant (1 - (f.bias : Int) - f.mb)
  else .fin neg (mant + 2 ^ f.mb) ((ex : Int) - f.bias - f.mb)

/-- The canonical NaN, or +0 with NV in a format that has none (R191, R195). -/
def canonNan (f : Fmt) : Nat × Flags :=
  match f.nan with
  | .ieee => ((2 ^ f.eb - 1) * 2 ^ f.mb + 2 ^ (f.mb - 1), 0)
  | .top => (2 ^ (f.eb + f.mb) - 1, 0)
  | .none => (0, fNV)

/-- The result of an invalid operation: the canonical NaN with NV (R195). -/
def invalidFp (f : Fmt) : Nat × Flags := ((canonNan f).1, fNV)

/-- The overflow rule (R194). -/
def overflowFp (f : Fmt) (mode : Rm) (neg : Bool) : Nat × Flags :=
  let toInf : Bool := match mode with
    | .rtz => false
    | .rup => !neg
    | .rdn => neg
    | _ => true
  if f.nan = .ieee ∧ toInf then (f.infCode neg, fOF ||| fNX) else (f.signed neg f.maxCode, fOF ||| fNX)

/-- Whether the magnitude `n + rem / 2^(r)` is rounded away from zero (R194); `half` is 2^(r-1). -/
def roundsUp (mode : Rm) (neg : Bool) (n rem half : Nat) : Bool :=
  match mode with
  | .rtz => false
  | .rup => rem != 0 && !neg
  | .rdn => rem != 0 && neg
  | .rmm => half ≤ rem && rem != 0
  | _ => half < rem || (half == rem && n % 2 == 1)

/-- The power of two of the kept least significant bit of m x 2^e in a format (R194 step 2). -/
def quantum (f : Fmt) (m : Nat) (e : Int) : Int :=
  max ((ilog2 m : Int) + e - f.mb) (1 - (f.bias : Int) - f.mb)

/-- m x 2^e is below the minimum normal (R194: tininess before rounding). -/
def isTiny (f : Fmt) (m : Nat) (e : Int) : Bool := (ilog2 m : Int) + e < 1 - (f.bias : Int)

/-- Significand units of 2^q, the discarded part and half a unit, for a non-zero m x 2^e; a part far below the last unit
stands as a quarter of it. -/
def splitAt (m : Nat) (e q : Int) : Nat × Nat × Nat :=
  if q ≤ e then (m * 2 ^ (e - q).toNat, 0, 1)
  else
    let r := (q - e).toNat
    if ilog2 m + 2 < r then (0, 1, 2) else (m / 2 ^ r, m % 2 ^ r, 2 ^ (r - 1))

/-- RoundF of R194 for (-1)^neg x m x 2^e. -/
def roundFp (f : Fmt) (mode : Rm) (neg : Bool) (m : Nat) (e : Int) : Nat × Flags :=
  if m = 0 then (f.signed neg 0, 0) else
    let q := quantum f m e
    let (n, rem, half) := splitAt m e q
    let n := if roundsUp mode neg n rem half then n + 1 else n
    let code := n + (q + f.bias + f.mb - 1).toNat * 2 ^ f.mb
    if f.maxCode < code then overflowFp f mode neg
    else (f.signed neg code, if rem = 0 then 0 else if isTiny f m e then fUF ||| fNX else fNX)

/-- RoundSR of R199 with the random word `r`. A value that the format's precision holds exactly, but that lies beyond its largest
finite value, overflows by the rule of R199 too. -/
def roundSr (f : Fmt) (r : Nat) (neg : Bool) (m : Nat) (e : Int) : Nat × Flags :=
  if m = 0 then (f.signed neg 0, 0) else
    let q := quantum f m e
    let (n, rem, half) := splitAt m e q
    if rem = 0 then roundFp f (if f.nan = .ieee then .rne else .rtz) neg m e else
      let d := if q ≤ e then 0 else rem * 2 ^ 32 / (2 * half)
      let d := if ilog2 m + 2 < (q - e).toNat then m * 2 ^ 32 / 2 ^ min (q - e).toNat 400 else d
      let n := if 2 ^ 32 ≤ d + r then n + 1 else n
      let code := n + (q + f.bias + f.mb - 1).toNat * 2 ^ f.mb
      if f.maxCode < code then overflowFp f (if f.nan = .ieee then .rne else .rtz) neg
      else (f.signed neg code, if isTiny f m e then fUF ||| fNX else fNX)

/-- A signed integer times a power of two, rounded; an exact zero takes the sign `zneg`. -/
def roundInt (f : Fmt) (mode : Rm) (zneg : Bool) (x : Int) (e : Int) : Nat × Flags :=
  if x = 0 then (f.signed zneg 0, 0) else roundFp f mode (x < 0) x.natAbs e

/-- A finite value over the common power `e`, which is at most its own. -/
def atPow (neg : Bool) (m : Nat) (e0 e : Int) : Int :=
  let n : Int := (m * 2 ^ (e0 - e).toNat : Nat)
  if neg then -n else n

/-- The sum of two finite values as an integer over the smaller power. -/
def addExact (n1 : Bool) (m1 : Nat) (e1 : Int) (n2 : Bool) (m2 : Nat) (e2 : Int) : Int × Int :=
  let e := min e1 e2
  (atPow n1 m1 e1 e + atPow n2 m2 e2 e, e)

/-- The sign of an exact zero sum (R195). -/
def zeroSign (mode : Rm) (n1 n2 : Bool) : Bool := if n1 = n2 then n1 else mode == .rdn

/-- x + y rounded once (R195, R218). -/
def addFp (f : Fmt) (mode : Rm) (x y : FVal) : Nat × Flags :=
  match x, y with
  | .nan, _ => canonNan f
  | _, .nan => canonNan f
  | .inf a, .inf b => if a = b then (f.infCode a, 0) else invalidFp f
  | .inf a, _ => (f.infCode a, 0)
  | _, .inf b => (f.infCode b, 0)
  | .fin n1 m1 e1, .fin n2 m2 e2 =>
    let (z, e) := addExact n1 m1 e1 n2 m2 e2
    roundInt f mode (zeroSign mode n1 n2) z e

/-- The value with its sign inverted. -/
def FVal.neg : FVal → FVal
  | .nan => .nan
  | .inf a => .inf (!a)
  | .fin n m e => .fin (!n) m e

/-- The exact product, or none where it is invalid (0 x ∞) (R195). -/
def mulExact (x y : FVal) : Option FVal :=
  match x, y with
  | .nan, _ => some .nan
  | _, .nan => some .nan
  | .inf a, .inf b => some (.inf (a != b))
  | .inf a, .fin n m _ => if m = 0 then none else some (.inf (a != n))
  | .fin n m _, .inf b => if m = 0 then none else some (.inf (n != b))
  | .fin n1 m1 e1, .fin n2 m2 e2 => some (.fin (n1 != n2) (m1 * m2) (e1 + e2))

/-- A value rounded once to a format; an infinity needs one in the format. -/
def roundVal (f : Fmt) (mode : Rm) (x : FVal) : Nat × Flags :=
  match x with
  | .nan => canonNan f
  | .inf a => if f.nan = .ieee then (f.infCode a, 0) else (f.signed a f.maxCode, fOF ||| fNX)
  | .fin n m e => roundFp f mode n m e

/-- x x y rounded once (R195, R218). -/
def mulFp (f : Fmt) (mode : Rm) (x y : FVal) : Nat × Flags :=
  match mulExact x y with
  | none => invalidFp f
  | some p => roundVal f mode p

/-- x x y + z with the product unrounded; 0 x ∞ raises NV whatever z is (R195, R218, R243). -/
def fmaFp (f : Fmt) (mode : Rm) (x y z : FVal) : Nat × Flags :=
  match mulExact x y with
  | none => invalidFp f
  | some p => addFp f mode p z

/-- x / y rounded once (R195, R218). -/
def divFp (f : Fmt) (mode : Rm) (x y : FVal) : Nat × Flags :=
  match x, y with
  | .nan, _ => canonNan f
  | _, .nan => canonNan f
  | .inf _, .inf _ => invalidFp f
  | .inf a, .fin n _ _ => (f.infCode (a != n), 0)
  | .fin n _ _, .inf b => (f.signed (n != b) 0, 0)
  | .fin n1 m1 e1, .fin n2 m2 e2 =>
    if m2 = 0 then (if m1 = 0 then invalidFp f else (f.infCode (n1 != n2), fDZ))
    else if m1 = 0 then (f.signed (n1 != n2) 0, 0)
    else
      let sh := f.mb + 6 + ilog2 m2
      let q := m1 * 2 ^ sh / m2
      let st := if m1 * 2 ^ sh % m2 = 0 then 0 else 1
      roundFp f mode (n1 != n2) (2 * q + st) (e1 - e2 - sh - 1)

/-- The integer square root of `n` from bit `k - 1` down, above the root `r` found so far. -/
def isqrtFrom (n : Nat) : Nat → Nat → Nat
  | 0, r => r
  | k + 1, r => isqrtFrom n k (if (r + 2 ^ k) * (r + 2 ^ k) ≤ n then r + 2 ^ k else r)

/-- The integer square root. -/
def isqrt (n : Nat) : Nat := isqrtFrom n (ilog2 n / 2 + 1) 0

/-- √x rounded once; √(-0) = -0 (R195, R218). -/
def sqrtFp (f : Fmt) (mode : Rm) (x : FVal) : Nat × Flags :=
  match x with
  | .nan => canonNan f
  | .inf false => (f.infCode false, 0)
  | .inf true => invalidFp f
  | .fin n m e =>
    if m = 0 then (f.signed n 0, 0) else if n then invalidFp f else
      let (m, e) := if e % 2 = 0 then (m, e) else (2 * m, e - 1)
      let sh := f.mb + 4
      let big := m * 2 ^ (2 * sh)
      let r := isqrt big
      let st := if r * r = big then 0 else 1
      roundFp f mode false (2 * r + st) (e / 2 - sh - 1)

/-- x < y; false where either is NaN, and -0 = +0 (R219). -/
def ltFp (x y : FVal) : Bool :=
  match x, y with
  | .nan, _ => false
  | _, .nan => false
  | .inf a, .inf b => a && !b
  | .inf a, _ => a
  | _, .inf b => !b
  | .fin n1 m1 e1, .fin n2 m2 e2 => (addExact n1 m1 e1 (!n2) m2 e2).1 < 0

/-- x = y; false where either is NaN, and -0 = +0 (R219). -/
def eqFp (x y : FVal) : Bool :=
  match x, y with
  | .nan, _ => false
  | _, .nan => false
  | .inf a, .inf b => a == b
  | .fin n1 m1 e1, .fin n2 m2 e2 => (addExact n1 m1 e1 (!n2) m2 e2).1 == 0
  | _, _ => false

/-- The value is negative or -0. -/
def FVal.isNeg : FVal → Bool
  | .nan => false
  | .inf a => a
  | .fin n _ _ => n

/-- x precedes y with -0 below +0 (R219). -/
def belowFp (x y : FVal) : Bool := ltFp x y || (eqFp x y && x.isNeg && !y.isNeg)

/-- fmin, or fmax with `hi` (R219): a NaN operand gives the canonical NaN and no flag. `a` and `b` are patterns. -/
def minMaxFp (f : Fmt) (hi : Bool) (a b : Nat) : Nat :=
  let x := decodeFp f a
  let y := decodeFp f b
  if x = .nan ∨ y = .nan then (canonNan f).1
  else if belowFp x y then (if hi then b else a) else (if hi then a else b)

/-- The comparisons of R219 and R243. -/
def cmpFp (cc : Cc) (x y : FVal) : Bool :=
  match cc with
  | .eq => eqFp x y
  | .ne => !eqFp x y
  | .lt => ltFp x y
  | .le => ltFp x y || eqFp x y
  | .gt => ltFp y x
  | .ge => ltFp y x || eqFp y x
  | .uo => x == .nan || y == .nan

/-- The one-hot class mask of an FP32 pattern (R219). -/
def classFp (a : Nat) : Nat :=
  let neg := a / 2 ^ 31 % 2 == 1
  let ex := a / 2 ^ 23 % 256
  let mant := a % 2 ^ 23
  if ex = 255 then (if mant = 0 then (if neg then 1 else 128) else 256)
  else if ex = 0 then (if mant = 0 then (if neg then 8 else 16) else (if neg then 4 else 32))
  else if neg then 2 else 64

/-- A finite value rounded to an integer in a mode, and whether that changed it (R203, R220). -/
def toIntFp (mode : Rm) (neg : Bool) (m : Nat) (e : Int) : Int × Bool :=
  if m = 0 then (0, false) else
    let (n, rem, half) := splitAt m e 0
    let n := if roundsUp mode neg n rem half then n + 1 else n
    ((if neg then -(n : Int) else n), rem != 0)

/-- Conversion to an integer of `w` bits between `lo` and `hi`, with the integer column of R203. -/
def cvtToInt (mode : Rm) (w : Nat) (lo hi : Int) (x : FVal) : Nat × Flags :=
  match x with
  | .nan => (0, fNV)
  | .inf a => (ofSigned w (if a then lo else hi), fNV)
  | .fin n m e =>
    let (z, inexact) := toIntFp mode n m e
    if z < lo then (ofSigned w lo, fNV) else if hi < z then (ofSigned w hi, fNV)
    else (ofSigned w z, if inexact then fNX else 0)

/-- The least value of an integer type (R193). -/
def tyLo (t : Ty) : Int := if t.isN then 0 else -(2 ^ (t.bits - 1) : Nat)

/-- The greatest value of an integer type (R193). -/
def tyHi (t : Ty) : Int := if t.isN then (2 ^ t.bits - 1 : Nat) else (2 ^ (t.bits - 1) - 1 : Nat)

/-- An integer element's value in its type (R193). -/
def intVal (t : Ty) (x : Nat) : Int := if t.isN then (low x t.bits : Nat) else toSigned t.bits x

/-- E8M0: 2^(e - 127), or NaN (R192). -/
def decodeE8m0 (x : Nat) : FVal := if x = 255 then .nan else .fin false 1 ((x : Int) - 127)

/-- The value of an element of a type: floating, E8M0, or integer (R191-R193). -/
def elemVal (t : Ty) (x : Nat) : FVal :=
  if t = .e8m0 then decodeE8m0 x
  else if t.isInt then let z := intVal t x; .fin (z < 0) z.natAbs 0
  else decodeFp (fmtOf t) x

/-- Conv of R203 to a type in a mode. -/
def convElem (t : Ty) (mode : Rm) (x : FVal) : Nat × Flags :=
  if t.isInt then cvtToInt mode t.bits (tyLo t) (tyHi t) x else roundVal (fmtOf t) mode x

/-- Conv of `vcvt.sr`: RoundSR in place of the rounding (R203). -/
def convSr (t : Ty) (r : Nat) (x : FVal) : Nat × Flags :=
  match x with
  | .fin n m e => roundSr (fmtOf t) r n m e
  | _ => roundVal (fmtOf t) .rne x

/-- The random word of R199 for element `i` in lane `j`. -/
def srWord (seed ctr i j : Nat) : Nat :=
  let x := low seed 32 ^^^ (j * 0x9E3779B9 % 2 ^ 32) ^^^ ((ctr + i) % 2 ^ 32)
  let x := x ^^^ (x / 2 ^ 16)
  let x := x * 0x21F0AAAD % 2 ^ 32
  let x := x ^^^ (x / 2 ^ 15)
  let x := x * 0x735A2D97 % 2 ^ 32
  x ^^^ (x / 2 ^ 15)

/-- The two's-complement value of `vfexpo` in the width of the format (R244). -/
def expoFp (f : Fmt) (x : FVal) : Nat :=
  let w := 1 + f.eb + f.mb
  match x with
  | .fin _ m e => if m = 0 then 2 ^ (w - 1) else ofSigned w ((ilog2 m : Int) + e)
  | _ => 2 ^ (w - 1) - 1

/-- `vfscale` (R244). -/
def scaleFp (f : Fmt) (mode : Rm) (x : FVal) (n : Int) : Nat × Flags :=
  match x with
  | .fin s m e => roundFp f mode s m (e + n)
  | _ => roundVal f mode x

/-! ### Estimates (R245, R246) -/

/-- The significand truncated to 11 fraction bits, in units of 2^-11 (R245). -/
def trunc11 (m : Nat) : Nat := m * 2 ^ 11 / 2 ^ ilog2 m

/-- a / b rounded to the nearest integer, ties to even. -/
def divRne (a b : Nat) : Nat :=
  let q := a / b
  let r := a % b
  if b < 2 * r ∨ (2 * r = b ∧ q % 2 = 1) then q + 1 else q

/-- `vrsqrte` on an FP32 value (R245). -/
def rsqrtE (x : FVal) : Nat × Flags :=
  match x with
  | .nan => canonNan fmtF32
  | .inf false => (0, 0)
  | .inf true => invalidFp fmtF32
  | .fin neg m e =>
    if m = 0 then (fmtF32.infCode neg, fDZ) else if neg then invalidFp fmtF32 else
      let ex := (ilog2 m : Int) + e
      let t := trunc11 m
      let (t, ex) := if ex % 2 = 0 then (t, ex) else (2 * t, ex - 1)
      let n := isqrt (2 ^ 37 / t)
      let n := if (2 * n + 1) * (2 * n + 1) * t < 2 ^ 39 then n + 1 else n
      ((roundFp fmtF32 .rne false n (-(ex / 2) - 13)).1, 0)

/-- `vrcpe` on an FP32 value (R246). -/
def rcpE (x : FVal) : Nat × Flags :=
  match x with
  | .nan => canonNan fmtF32
  | .inf a => (fmtF32.signed a 0, 0)
  | .fin neg m e =>
    if m = 0 then (fmtF32.infCode neg, fDZ) else
      roundFp fmtF32 .rne neg (divRne (2 ^ 24) (trunc11 m)) (-((ilog2 m : Int) + e) - 13)

/-- The largest n of bits `k - 1` down above `r` with n^2048 ≤ 2^p. -/
def root2048 (p : Nat) : Nat → Nat → Nat
  | 0, r => r
  | k + 1, r => root2048 p k (if (r + 2 ^ k) ^ 2048 ≤ 2 ^ p then r + 2 ^ k else r)

/-- 2^(t / 2^11) rounded to 12 fraction bits, in units of 2^-12 (R246). -/
def exp2Frac (t : Nat) : Nat :=
  let n := root2048 (12 * 2048 + t) 13 0
  if (2 * n + 1) ^ 2048 < 2 ^ (13 * 2048 + t) then n + 1 else n

/-- `vexp2e` on an FP32 value (R246). Beyond ±1,000 the result overflows or vanishes whatever the fraction is. -/
def exp2E (x : FVal) : Nat × Flags :=
  match x with
  | .nan => canonNan fmtF32
  | .inf false => (fmtF32.infCode false, 0)
  | .inf true => (0, 0)
  | .fin neg m e =>
    if m = 0 then (0x3F800000, 0) else
      let num : Int := if neg then -(m : Int) else m
      let (n, t) : Int × Nat :=
        if 0 ≤ e then (num * (2 ^ e.toNat : Nat), 0)
        else
          let d : Int := (2 ^ (-e).toNat : Nat)
          (num / d, ((num % d) * 2048 / d).toNat)
      roundFp fmtF32 .rne false (exp2Frac t) (clampInt (-1000) 1000 n - 12)

/-- The largest j of bits `k - 1` down above `r` with 2^j ≤ x. -/
def pow2Below (x : Nat) : Nat → Nat → Nat
  | 0, r => r
  | k + 1, r => pow2Below x k (if 2 ^ (r + 2 ^ k) ≤ x then r + 2 ^ k else r)

/-- log2 of t / 2^11 rounded to a multiple of 2^-12, in units of 2^-12, for t from 2^11 up (R246). -/
def log2Frac (t : Nat) : Nat := (pow2Below (t ^ 8192) 17 0 + 1) / 2 - 11 * 4096

/-- `vlog2e` on an FP32 value (R246). -/
def log2E (x : FVal) : Nat × Flags :=
  match x with
  | .nan => canonNan fmtF32
  | .inf false => (fmtF32.infCode false, 0)
  | .inf true => invalidFp fmtF32
  | .fin neg m e =>
    if m = 0 then (fmtF32.infCode true, fDZ) else if neg then invalidFp fmtF32 else
      let z : Int := ((ilog2 m : Int) + e) * 4096 + log2Frac (trunc11 m)
      ((roundInt fmtF32 .rne false z (-12)).1, 0)

/-! ### Block sums and accumulation (R207-R209) -/

/-- The leading power of two of a non-zero finite value. -/
def topPow : FVal → Option Int
  | .fin _ m e => if m = 0 then none else some ((ilog2 m : Int) + e)
  | _ => none

/-- A finite value truncated toward zero to a multiple of 2^g, in units of 2^g (R207 step 3). -/
def truncTo (g : Int) : FVal → Int
  | .fin n m e =>
    let k : Nat := if g ≤ e then m * 2 ^ (e - g).toNat else
      (let r := (g - e).toNat
       if ilog2 m < r then 0 else m / 2 ^ r)
    if n then -(k : Int) else k
  | _ => 0

/-- The product is an infinity of that sign. -/
def isInfOf (neg : Bool) (p : FVal) : Bool := p == .inf neg

/-- The block sum of exact products (R207); `none` marks 0 x ∞. -/
def blockSum (ps : List (Option FVal)) : Nat :=
  if ps.any (fun p => p == none || p == some .nan) then (canonNan fmtF32).1 else
    let vs := ps.filterMap id
    let pos := vs.any (isInfOf false)
    let neg := vs.any (isInfOf true)
    if pos && neg then (canonNan fmtF32).1
    else if pos then fmtF32.infCode false
    else if neg then fmtF32.infCode true
    else
      match (vs.filterMap topPow).max? with
      | none => if vs.all FVal.isNeg && !vs.isEmpty then fmtF32.signed true 0 else 0
      | some e =>
        let z := (vs.map (truncTo (e - 66))).foldl (· + ·) 0
        (roundInt fmtF32 .rne false z (e - 66)).1

/-- acc := RoundF32(acc + x, rne) on FP32 patterns (R208). -/
def addF32 (a b : Nat) : Nat := (addFp fmtF32 .rne (decodeFp fmtF32 a) (decodeFp fmtF32 b)).1

/-- acc + b saturated to 32 bits, and whether it saturated (R209). -/
def satAdd32 (a : Nat) (b : Int) : Nat × Bool :=
  let z := toSigned 32 a + b
  let y := clampInt (-(2 ^ 31 : Nat)) (2 ^ 31 - 1 : Nat) z
  (ofSigned 32 y, y != z)

/-- An MX operand's value: an i8 code c counts as c / 64 (R193). -/
def mxVal (t : Ty) (x : Nat) : FVal :=
  if t = .i8 then let z := toSigned 8 x; .fin (z < 0) z.natAbs (-6) else decodeFp (fmtOf t) x

/-! ### Key orders (R211) -/

/-- A key of a type mapped to an unsigned integer (R211). -/
def keyMap (t : Ty) (k : Nat) : Nat :=
  let w := t.bits
  let k := low k w
  if t.isN then k
  else if t.isI then k ^^^ 2 ^ (w - 1)
  else if k < 2 ^ (w - 1) then k + 2 ^ (w - 1) else 2 ^ w - 1 - k

end Sys2Proof.Machine
end

