-- ==== Sys2Proof/Machine/Flags.lean ====
section
/-! DEFINITION. ctl.fflags and ctl.fpm (09 R196, R197) and the generator of stochastic rounding (R198, R199). -/

namespace Sys2Proof.Machine

/-- Flags ORed into ctl.fflags (R197). -/
def Ctx.orFlags (c : Ctx) (f : Flags) : Ctx := if f = 0 then c else c.setCr 14 (c.cr 14 ||| f.setWidth 64)

/-- The rounding mode of ctl.fpm (R196). -/
def Ctx.fpm (c : Ctx) : Rm :=
  match bits (c.cr 13) 0 3 with
  | 1 => .rtz | 2 => .rup | 3 => .rdn | 4 => .rmm | _ => .rne

/-- The mode of an instruction: its RM field, or ctl.fpm for dyn (R162, R196). -/
def Ctx.mode (c : Ctx) (rm : Rm) : Rm := if rm = .dyn then c.fpm else rm

/-- The random word of element `i` (R199). -/
def Ctx.srWordAt (c : Ctx) (i : Nat) : Nat := srWord (c.cr 15).toNat (c.cr 16).toNat i (i % c.lanes)

/-- CTR advanced by vl when a stochastic instruction completes (R198, R199). -/
def Ctx.advanceCtr (c : Ctx) : Ctx := c.setCr 16 (BitVec.ofNat 64 (((c.cr 16).toNat + c.vl) % 2 ^ 32))

end Sys2Proof.Machine
end

