-- ==== Sys2Proof/Machine/Operands.lean ====
section
/-! DEFINITION. Register operands: rotating names (10 R225), reads below the producer distance (07 R167), last-use
registers (R172), slot B's view (R163), the recorded operands of a producer that runs again (R169), register writes, and
register poison (20 R363). -/

namespace Sys2Proof.Machine

/-- PASS as the word resolves its names with it: as it stands, or, for a producer that runs again, as it stood at its first issue
(R169, R228). -/
def Ctx.pass (c : Ctx) : Nat :=
  match c.redo with
  | some r => r.pass
  | none => (c.cr 5).toNat % 2 ^ 49

/-- The physical slot of a vector name: v32 to v63 rotate with PASS (R225). -/
def Ctx.vslot (c : Ctx) (n : Nat) : Nat :=
  if n < 32 then n else 32 + ((n - 32 : Nat) - (c.pass : Nat) : Int).emod 32 |>.toNat

/-- The registers as they stand before a word (R163). -/
def Ctx.view (c : Ctx) : View := { s := c.s, recent := c.recent, lastUse := c.lastUse }

/-- A register's contents as a number: s0 reads 0 and m0 reads all-true (R174). -/
def Ctx.regVal (c : Ctx) : PReg → Nat
  | .s n => if n = 0 then 0 else (c.s.getD n 0).toNat
  | .v n => (c.v.getD n 0).toNat
  | .m n => if n = 0 then 2 ^ 8192 - 1 else (c.m.getD n 0).toNat
  | .c n => (c.cr n).toNat
  | .q _ => 0
  | .t _ => 0

/-- The poison marks of a register cleared, as a write does (R240, R363). -/
def Ctx.clearMarks (c : Ctx) : PReg → Ctx
  | .s n => { c with ps := setBits c.ps (2 * n) 2 0 }
  | .v n => { c with pv := c.pv.setIfInBounds n 0 }
  | .m n => { c with pm := c.pm.setIfInBounds n 0 }
  | _ => c

/-- A register written, nothing recorded: a write to s0 or m0 is discarded (R174). A write ends a last-use mark (R172), and the granules
that `hit` names of it are in the register file again (R151). -/
def Ctx.putReg (c : Ctx) (r : PReg) (x : Nat) (hit : BitVec 32 := 0xFFFFFFFF) : Ctx :=
  let c := { c with
    lastUse := c.lastUse.filter (· != r), lastNew := c.lastNew.filter (· != r)
    evicted := c.evicted.filter fun e => r == .s 0 || r == .m 0 || !regHit c.lanes r hit.getLsbD e.1 }
  match r with
  | .s n => if n = 0 then c else { c with s := c.s.setIfInBounds n (BitVec.ofNat 64 x) }
  | .v n => { c with v := c.v.setIfInBounds n (BitVec.ofNat 16384 x) }
  | .m n => if n = 0 then c else { c with m := c.m.setIfInBounds n (BitVec.ofNat 8192 x) }
  | .c n => c.setCr n (BitVec.ofNat 64 x)
  | .q _ => c
  | .t _ => c

/-- A pending result no longer writes a register that a later word has written (R168). -/
def Pending.overtaken (p : Pending) (r : PReg) : Pending :=
  { p with vals := p.vals.map fun (v : RegVal) => if v.reg = r then { v with wrote := true } else v }

/-- A register written by the word that executes: pending results of earlier producers yield to it (R168), and its old
value is kept for words that read below PD (R167). -/
def Ctx.writeReg (c : Ctx) (r : PReg) (x : Nat) (hit : BitVec 32 := 0xFFFFFFFF) : Ctx :=
  let old : List (PReg × Word) := match r with
    | .s n => [(.s n, c.s.getD n 0)]
    | .c n => [(.c n, c.cr n)]
    | _ => []
  let recent := match c.recent with
    | [] => [old]
    | h :: t => (h ++ old) :: t
  (({ c with pend := c.pend.map fun (p : Pending) => p.overtaken r, recent := recent }).clearMarks r).putReg r x hit

/-- The value a read below PD returns (R167): from the nearest word outward, each fixed-latency producer at a distance
below PD may not have completed, freely for each read. `k` numbers the read. -/
def Ctx.hazard (c : Ctx) (nd k : Nat) (r : PReg) : Nat → Nat → Word → Word
  | 0, _, x => x
  | fuel + 1, d, x =>
    if c.ctl.pd.toNat ≤ d then x else
      match (c.recent.getD d []).find? (fun p => p.1 == r) with
      | none => c.hazard nd k r fuel (d + 1) x
      | some p => if Config.choice nd (16 * k + d) then c.hazard nd k r fuel (d + 1) p.2 else x

/-- Each granule of 512 bits kept or read as zero, freely for each read and granule. -/
def dropGranules (nd k width x : Nat) : Nat :=
  (List.range ((width + 511) / 512)).foldl (fun acc g =>
    if Config.choice nd (1000 + 64 * k + g) then acc - (x / 2 ^ (512 * g) % 2 ^ 512) * 2 ^ (512 * g) else acc) x

/-- A last-use register reads its old value or zero (R172). -/
def Ctx.lastUseView (c : Ctx) (nd k : Nat) (r : PReg) (width x : Nat) : Nat :=
  if !c.lastUse.contains r then x else dropGranules nd k width x

/-- Scalar operand number `k` of the word, register `r`, as the word reads it (R163, R167, R169, R172). -/
def State.opS (s : State) (k : Nat) (r : Reg) : Word :=
  let c := s.cur
  let k' := k + 4 * c.pslot
  if c.rpt then c.rpop.getD k 0
  else if r = 0 then 0
  else
    let c' := match c.views with
      | some v => { c with s := v.s, recent := v.recent, lastUse := v.lastUse }
      | none => c
    let x := c'.hazard s.nd k' (.s r.toNat) 8 1 (c'.s.getD r.toNat 0)
    BitVec.ofNat 64 (c'.lastUseView s.nd k' (.s r.toNat) 64 x.toNat)

/-- Control register `n` read by the word under PD (R167). -/
def State.opC (s : State) (k n : Nat) : Word := s.cur.hazard s.nd k (.c n) 8 1 (s.cur.cr n)

/-- Vector operand number `k`, by name (R225, R228). -/
def State.opV (s : State) (k : Nat) (r : Reg) : BitVec 16384 :=
  let n := s.cur.vslot r.toNat
  BitVec.ofNat 16384 (s.cur.lastUseView s.nd k (.v n) 16384 (s.cur.v.getD n 0).toNat)

/-- Vector operand register number `n` past a group's first, by name (R201). -/
def State.opVAt (s : State) (k : Nat) (r : Reg) (n : Nat) : BitVec 16384 :=
  let n := s.cur.vslot ((r.toNat + n) % 64)
  BitVec.ofNat 16384 (s.cur.lastUseView s.nd (k + 8 + n) (.v n) 16384 (s.cur.v.getD n 0).toNat)

/-- Mask operand: m0 is all-true (R174). -/
def State.opM (s : State) (k : Nat) (r : Nat) : BitVec 8192 :=
  if r = 0 then BitVec.allOnes 8192
  else BitVec.ofNat 8192 (s.cur.lastUseView s.nd k (.m r) 8192 (s.cur.m.getD r 0).toNat)

/-- Stream register operand (R254); a last-use mark may make each of its 64-byte halves read zero (R172). -/
def State.opQ (s : State) (k : Nat) (r : Reg) : QReg :=
  let q := s.cur.q.getD r.toNat {}
  if s.cur.lastUse.contains (.q r.toNat) && Config.choice s.nd (1000 + 64 * k) then {} else q

/-- Tile register operand (R282); a last-use mark may make any granule of it read zero (R172). -/
def State.opT (s : State) (k : Nat) (r : Nat) : TReg :=
  let t := s.cur.t.getD r {}
  { t with bits := BitVec.ofNat 262144 (s.cur.lastUseView s.nd k (.t r) 262144 t.bits.toNat) }

/-- The granules of a vector register that elements `is` at width `w` touch (R142). -/
def hitGranules (l w : Nat) (is : List Nat) : BitVec 32 := is.foldl (fun h i => setBits h (elemPos l w i / 512) 1 1) 0

/-! ### Poison (R363) -/

/-- A scalar register that the word consumes is poisoned; `half` for an FP32 read of [31:0] only. -/
def Ctx.poisonedS (c : Ctx) (half : Bool) (r : Reg) : Bool :=
  r != 0 && (c.ps.getLsbD (2 * r.toNat) || (!half && c.ps.getLsbD (2 * r.toNat + 1)))

/-- A position of element `i` at width `w` in a vector register is poisoned. Positions are two bits wide. -/
def Ctx.poisonedV (c : Ctx) (n w i : Nat) : Bool :=
  if c.lanes = 0 then false else
    bits (c.pv.getD n 0) (elemPos c.lanes w i / 2) ((w + 1) / 2) != 0

/-- The mark of element `i` at width `w` of a vector register, cleared or kept by a write (R240). -/
def Ctx.setMarkV (c : Ctx) (n w i : Nat) (p : Bool) : Ctx :=
  let k := (w + 1) / 2
  let marks := setBits (c.pv.getD n 0) (elemPos c.lanes w i / 2) k (if p then 2 ^ k - 1 else 0)
  { c with pv := c.pv.setIfInBounds n marks }

end Sys2Proof.Machine
end

