-- ==== Sys2Proof/Machine/Image.lean ====
section
/-! DEFINITION. The context image (06 R150, 20 R361, R362): its 64-byte granules as the context gives them, the image
written when a context is parked (R153), and the image read again when a handler resumes it (R368). -/

namespace Sys2Proof.Machine

/-- A granule of an image: 64 bytes. -/
abbrev Granule := BitVec 512

/-- Granules of an image for a grant of `l` lanes; with 32 lanes the pending vector results lie beyond TREG (R362). -/
def imageGranules (l : Nat) : Nat := 512 + 192 * l + (if l = 32 then 224 else 0)

/-- The pending record of a result (R362): word 0, word 1 and word 2. -/
def Pending.image (p : Pending) : List Word :=
  let aux : List RegVal := p.vals.filter fun v => v.reg == .c 0 || v.reg == .c 7
  let main : List RegVal := p.vals.filter fun v => !(v.reg == .c 0 || v.reg == .c 7) && !v.wrote
  let live : List RegVal := aux.filter fun v => !v.wrote
  let hsp := live.any fun v => v.reg == .c 7
  let vlp := live.any fun v => v.reg == .c 0
  let sub := (live.find? fun _ => true).map (·.val)
  let file : Nat × Nat × Nat × Nat := match main with
    | { reg := .s n, val := x, .. } :: _ => (0, n, 0, x)
    | { reg := .v n, .. } :: _ => (1, n, 0, 0)
    | { reg := .m n, .. } :: _ => (2, n, 0, 0)
    | { reg := .c n, val := x, .. } :: _ => (3, 0, n, x)
    | _ => (0, 0, 0, 0)
  let (f, r, n, x) := file
  [BitVec.ofNat 64 (1 + 2 * f + 2 ^ 8 * r + (if hsp then 2 ^ 14 else 0) + (if vlp then 2 ^ 15 else 0) + 2 ^ 16 * n
      + 2 ^ 21 * p.flags.toNat),
   BitVec.ofNat 64 x, BitVec.ofNat 64 (sub.getD 0)]

/-- The vector or mask value that waits under a tag (R362). -/
def Ctx.pendingWide (c : Ctx) (tag : Nat) : Nat :=
  match c.pend.find? (fun p => p.tag == tag) with
  | some p => (p.vals.findSome? fun (v : RegVal) => match v.reg with
      | .v _ => some v.val
      | .m _ => some v.val
      | _ => none).getD 0
  | none => 0

/-! ### tsh (R281) -/

/-- M (R281). -/
def tshM (t : Word) : Nat := bits t 0 6 + 1
/-- N (R281). -/
def tshN (t : Word) : Nat := bits t 8 8 + 1
/-- The number of K-blocks (R281). -/
def tshK (t : Word) : Nat := bits t 16 16 + 1
/-- FW (R281). -/
def tshW (t : Word) : Ty := (Ty.ofCode (BitVec.ofNat 5 (bits t 32 5))).getD .i2
/-- FA (R281). -/
def tshA (t : Word) : Ty := (Ty.ofCode (BitVec.ofNat 5 (bits t 40 5))).getD .i2

/-! ### The matrix queue in the image (R298) -/

/-- The fetches that a context has not consumed to their ends. -/
def Ctx.fetchList (c : Ctx) : List Fetch := (c.mq.filterMap fun (e : MEntry) => e.fetch) ++ c.fetches

/-- The lines of a fetch's rows by VA / 128, each with the first byte of the first row that meets it (a row without elements names
its address alone); `none` where a row alone meets
more lines than a context may pin. -/
def fetchLineVas (base stride : Word) (rows rowBytes : Nat) : Option (List (Nat × Nat)) :=
  if 128 * 256 < rowBytes then none
  else
    let row (m : Nat) : List (Nat × Nat) :=
      let a := (base + BitVec.ofNat 64 m * stride).toNat
      (List.range ((a + max 1 rowBytes - 1) / 128 + 1 - a / 128)).map fun k => (a / 128 + k, max a (128 * (a / 128 + k)))
    some (((List.range rows).flatMap row).foldl (fun (acc : List (Nat × Nat)) q =>
      if acc.any fun p => p.1 == q.1 then acc else acc ++ [q]) [])

/-- The vector operands of a matrix instruction, as the registers stand. -/
def Ctx.entryVecs (c : Ctx) : Instr → List (BitVec 16384)
  | .mpm _ fet f => if fet then [] else (List.range 8).map fun k => c.v.getD (c.vslot (f.rs1.toNat + k)) 0
  | .mopa f => [c.v.getD (c.vslot f.rs1.toNat) 0, c.v.getD (c.vslot f.rs2.toNat) 0]
  | .mscacc f => [c.v.getD (c.vslot f.rs2.toNat) 0, c.v.getD (c.vslot f.rs3.toNat) 0]
  | .mins f => [c.v.getD (c.vslot f.rs1.toNat) 0]
  | _ => []

/-- A queued entry of MQ read again (R298): what the image does not hold, the vector operands read at issue, stays with the parked
context's entry when its body is the same; an entry that a handler wrote takes its operands as they stand (log 13). An `mfetch` keeps its
fetch only where its scalar operands are the same too (log 55). -/
def Ctx.queueEntry (c : Ctx) (k : Nat) (body : Word) (ops : List Word) : Option MEntry :=
  match c.mq[k]? with
  | some e =>
    if encodeBody e.body ≠ body then fresh
    else if e.fid.isSome && e.ops != ops then fresh
    else some { e with ops := ops }
  | none => fresh
where
  fresh : Option MEntry := match decodeF body with
    | some i => some { body := i, ops := ops, vecs := c.entryVecs i, mask := BitVec.allOnes 8192, vl := c.vl,
                       lanes := c.lanes, tsh := c.cr 9, mode := c.fpm }
    | none => none

/-- Word `i` of CTLB (R361). -/
def Ctx.ctlbWord (c : Ctx) (i : Nat) : Word :=
  if i = 0 then BitVec.ofNat 64 (c.pc.toNat + (if c.super then 2 ^ 32 else 0) + (if c.rpt then 2 ^ 33 else 0))
  else if i = 1 then if c.rpt then c.rword.setWidth 64 else 0
  else if i < 5 then if c.rpt then c.rpop.getD (i - 2) 0 else 0
  else if i = 5 then match c.posted with
    | p :: _ => BitVec.ofNat 64 (2 ^ 63 + p.code)
    | [] => 0
  else if i = 6 then match c.posted with
    | p :: _ => p.tval
    | [] => 0
  else if i < 28 then
    match c.pend.find? (fun p => p.tag == (i - 7) / 3 + 1) with
    | some p => p.image.getD ((i - 7) % 3) 0
    | none => 0
  else if 32 ≤ i ∧ i < 64 then c.cr (i - 32)
  else if 64 ≤ i then
    match c.mq[(i - 64) / 4]? with
    | some e => if i % 4 = 0 then encodeBody e.body else e.ops.getD (i % 4 - 1) 0
    | none => 0
  else 0

/-- Eight words as a granule. -/
def granuleOf (ws : List Word) : Granule :=
  BitVec.ofNat 512 (ws.foldr (fun w acc => acc * 2 ^ 64 + w.toNat) 0)

/-- Granule `g` of the image of a context (R150). -/
def Ctx.imageGranule (c : Ctx) (g : Nat) : Granule :=
  let l := c.lanes
  if g < 16 then granuleOf ((List.range 8).map fun k => c.ctlbWord (8 * g + k))
  else if g < 24 then granuleOf ((List.range 8).map fun k =>
    let n := 8 * (g - 16) + k
    if n = 0 then 0 else c.s.getD n 0)
  else if g < 32 then 0
  else if g < 288 then
    let r := (g - 32) / 16
    if r = 0 then
      if g = 32 then granuleOf ((List.range 8).map fun k => (c.t.getD k {}).flags) else 0
    else BitVec.ofNat 512 (bits (c.m.getD r 0) (512 * ((g - 32) % 16)) 512)
  else if g < 320 then
    if g % 2 = 0 then
      let q := c.q.getD ((g - 288) / 2) {}
      granuleOf [q.base, q.stride, q.count, q.cfg]
    else 0
  else if g < 512 then
    if l ≤ 16 ∧ g - 320 < 7 * l then BitVec.ofNat 512 (c.pendingWide ((g - 320) / l + 1) / 2 ^ (512 * ((g - 320) % l)))
    else 0
  else if g < 512 + 64 * l then
    BitVec.ofNat 512 (bits (c.v.getD ((g - 512) / l) 0) (512 * ((g - 512) % l)) 512)
  else if g < 512 + 192 * l then
    let k := g - 512 - 64 * l
    BitVec.ofNat 512 (bits (c.t.getD (k / (16 * l)) {}).bits (512 * (k % (16 * l))) 512)
  else
    let k := g - 512 - 192 * l
    BitVec.ofNat 512 (c.pendingWide (k / 32 + 1) / 2 ^ (512 * (k % 32)))

/-- The marks that a vector or mask result that waits under a tag keeps (R240). -/
def Ctx.pendingMarks (c : Ctx) (tag : Nat) : BitVec 8192 :=
  match c.pend.find? (fun p => p.tag == tag) with
  | some p => (p.vals.findSome? fun (v : RegVal) => match v.reg with
      | .v _ => some v.marks
      | .m _ => some v.marks
      | _ => none).getD 0
  | none => 0

/-- The granule that holds part `k` of the vector result pending under a tag, with `l` lanes (R362). -/
def wideGranule (l tag k : Nat) : Nat :=
  if l = 32 then 512 + 192 * l + 32 * (tag - 1) + k else 320 + l * (tag - 1) + k

/-- The tag, and the part of its vector or mask result, that granule `g` of the pending area holds, with `l` lanes (R362). -/
def widePart (l g : Nat) : Option (Nat × Nat) :=
  if 512 + 192 * l ≤ g ∧ l = 32 then some ((g - 512 - 192 * l) / 32 + 1, (g - 512 - 192 * l) % 32)
  else if 320 ≤ g ∧ g < 512 ∧ l ≤ 16 ∧ g - 320 < 7 * l then some ((g - 320) / l + 1, (g - 320) % l)
  else none

/-- The pending record of a tag is written, with its value: their granules are in the register file again (R151, R362). -/
def Ctx.wroteTag (c : Ctx) (tag : Nat) : Ctx :=
  if tag = 0 then c
  else c.rewrote fun g => ((3 * tag + 4) / 8 ≤ g && g ≤ (3 * tag + 6) / 8) || (widePart c.lanes g).any fun p => p.1 == tag

/-- Part `k` of the vector or mask result that is pending under a tag changed: its value and the marks of it. -/
def Ctx.mapWide (c : Ctx) (tag : Nat) (f : RegVal → RegVal) : Ctx :=
  { c with pend := c.pend.map fun (p : Pending) => if p.tag != tag then p else
      { p with vals := p.vals.map fun (v : RegVal) => match v.reg with
          | .v _ => f v
          | .m _ => f v
          | _ => v } }

/-- A position in granule `g` is marked poisoned (R363). -/
def Ctx.granulePoison (c : Ctx) (g : Nat) : Bool :=
  let l := c.lanes
  if 16 ≤ g ∧ g < 24 then bits c.ps (16 * (g - 16)) 16 != 0
  else if 48 ≤ g ∧ g < 288 then bits (c.pm.getD ((g - 32) / 16) 0) (256 * ((g - 32) % 16)) 256 != 0
  else if 512 ≤ g ∧ g < 512 + 64 * l then bits (c.pv.getD ((g - 512) / l) 0) (256 * ((g - 512) % l)) 256 != 0
  else if 512 + 64 * l ≤ g ∧ g < 512 + 192 * l then
    let k := g - 512 - 64 * l
    bits (c.t.getD (k / (16 * l)) {}).poison (16 * (k % (16 * l))) 16 != 0
  else (widePart l g).any fun p => bits (c.pendingMarks p.1) (256 * p.2) 256 != 0

/-- Every position of granule `g` marked, as a refill from a poisoned line does (R363), or none of them. -/
def Ctx.markGranule (c : Ctx) (g : Nat) (bad : Bool) : Ctx :=
  let l := c.lanes
  let on {w : Nat} (x : BitVec w) (lo n : Nat) : BitVec w := setBits x lo n (if bad then 2 ^ n - 1 else 0)
  if 16 ≤ g ∧ g < 24 then { c with ps := on c.ps (16 * (g - 16)) 16 }
  else if 48 ≤ g ∧ g < 288 then
    let r := (g - 32) / 16
    let x := on (c.pm.getD r 0) (256 * ((g - 32) % 16)) 256
    { c with pm := c.pm.setIfInBounds r x }
  else if 512 ≤ g ∧ g < 512 + 64 * l then
    let r := (g - 512) / l
    let x := on (c.pv.getD r 0) (256 * ((g - 512) % l)) 256
    { c with pv := c.pv.setIfInBounds r x }
  else if 512 + 64 * l ≤ g ∧ g < 512 + 192 * l then
    let k := g - 512 - 64 * l
    let t := c.t.getD (k / (16 * l)) {}
    let x := on t.poison (16 * (k % (16 * l))) 16
    { c with t := c.t.setIfInBounds (k / (16 * l)) { t with poison := x } }
  else match widePart l g with
    | some (tag, k) => c.mapWide tag fun v => { v with marks := on v.marks (256 * k) 256 }
    | none => c

/-- Word `k` of a granule. -/
def granuleWord (x : Granule) (k : Nat) : Word := x.extractLsb' (64 * k) 64

/-- A part of a pending vector or mask result taken from the image (R362). -/
def Ctx.loadWide (c : Ctx) (g : Nat) (x : Granule) : Ctx :=
  match widePart c.lanes g with
  | some (tag, k) => c.mapWide tag fun v =>
      { v with val := v.val - v.val / 2 ^ (512 * k) % 2 ^ 512 * 2 ^ (512 * k) + x.toNat * 2 ^ (512 * k) }
  | none => c

/-- The registers that granule `g` holds taken from the image (R150); CTLB is parsed apart. -/
def Ctx.loadGranule (c : Ctx) (g : Nat) (x : Granule) : Ctx :=
  let l := c.lanes
  if g < 16 then c
  else if g < 24 then (List.range 8).foldl (fun (c : Ctx) k =>
    let n := 8 * (g - 16) + k
    { c with s := c.s.setIfInBounds n (if n = 0 then 0 else granuleWord x k) }) c
  else if g < 32 then c
  else if g = 32 then (List.range 8).foldl (fun (c : Ctx) k =>
    { c with t := c.t.setIfInBounds k { c.t.getD k {} with flags := granuleWord x k } }) c
  else if g < 48 then c
  else if g < 288 then
    let r := (g - 32) / 16
    { c with m := c.m.setIfInBounds r (setBits (c.m.getD r 0) (512 * ((g - 32) % 16)) 512 x.toNat) }
  else if g < 320 then
    if g % 2 = 0 then
      let q : QReg := { base := granuleWord x 0, stride := granuleWord x 1,
                        count := (granuleWord x 2) &&& 0xFFFFFFFFFFFF, cfg := (granuleWord x 3) &&& 0xF1C7 }
      { c with q := c.q.setIfInBounds ((g - 288) / 2) q }
    else c
  else if g < 512 then c.loadWide g x
  else if g < 512 + 64 * l then
    let r := (g - 512) / l
    { c with v := c.v.setIfInBounds r (setBits (c.v.getD r 0) (512 * ((g - 512) % l)) 512 x.toNat) }
  else if g < 512 + 192 * l then
    let k := g - 512 - 64 * l
    let t := c.t.getD (k / (16 * l)) {}
    let b := setBits t.bits (512 * (k % (16 * l))) 512 x.toNat
    { c with t := c.t.setIfInBounds (k / (16 * l)) { t with bits := b } }
  else c.loadWide g x

/-- The leaf under which the image's line at `va` is reached by the hardware: fast or capacity tier, CA = 00, readable
and writable by the partition (R150). -/
def State.imageLeaf (s : State) (p asid va : Nat) (acc : Acc) : Option Leaf :=
  if windowBase ≤ va then none else
    match s.walk p asid va acc with
    | .leaf l => if (region (l.pa va) == .fast || region (l.pa va) == .cap) && l.ca == 0 && l.rd && l.wr then some l else none
    | .fault .. => none

/-- Pages of an image at `va`, by the first line of each. -/
def imagePages (va l : Nat) : List Nat := (List.range (ceilDiv (64 * imageGranules l) 65536)).map fun k => va + 65536 * k

/-- The image of a context can be written where ctl.ctx names it. -/
def State.imageOk (s : State) (c : Ctx) : Bool :=
  let va := (c.cr 17).toNat
  va % 65536 == 0 && (imagePages va c.lanes).all fun a => (s.imageLeaf c.part c.asid a .write).isSome

/-- The lines of some pages walked as far as the first that leads nowhere (R73, R74). -/
def State.pagesMissed (s : State) (c : Ctx) (acc : Acc) (pages : List Nat) : State :=
  let ok := pages.takeWhile fun a => (s.imageLeaf c.part c.asid a acc).isSome
  (pages.take (ok.length + 1)).foldl (fun s a => s.walkMet c.part c.asid a) s

/-- The image of a context cannot be reached: its pages have been walked as far as the one that is at fault (R73, R74). -/
def State.imageMissed (s : State) (c : Ctx) : State :=
  if s.latent.isEmpty then s
  else s.pagesMissed c (if c.status == .parked then .read else .write) (imagePages (c.cr 17).toNat c.lanes)

/-- A granule that the context has evicted and not fetched or written since stands in the image alone (R151). -/
def Ctx.away (c : Ctx) (g : Nat) : Bool := c.evicted.any fun e => e.1 == g && c.imageGranule g == e.2

/-- Line `k` of the image of a context written at its home, its granules that are not away, a poisoned one as poison (R153, R363). -/
def State.parkLine (s : State) (c : Ctx) (k : Nat) : State :=
  let va := (c.cr 17).toNat + 128 * k
  match s.imageLeaf c.part c.asid va .write with
  | none => s
  | some l =>
    let d : LineVal := (c.imageGranule (2 * k)).setWidth 1024 ||| ((c.imageGranule (2 * k + 1)).setWidth 1024 <<< 512)
    let half (j : Nat) : ByteMask := if c.away (2 * k + j) then 0 else byteSpan (64 * j) 64
    let bad (j : Nat) : Bool := !c.away (2 * k + j) && c.granulePoison (2 * k + j)
    if half 0 ||| half 1 = 0 then s else s.homeApply (l.pa va / 128) l.key false d (half 0 ||| half 1) (bad 0 || bad 1)

/-- A page of the image of a context is being moved: a write of it waits (R35). -/
def State.imageWaits (s : State) (c : Ctx) : Bool :=
  (imagePages (c.cr 17).toNat c.lanes).any fun a => (s.imageLeaf c.part c.asid a .write).any (·.m)

/-- A write of the graph engine joins those that wait for a migration (R35). -/
def State.owe (s : State) (p asid slot : Nat) (act : OwedAct) : State :=
  { s with owed := s.owed ++ [{ part := p, asid := asid, slot := slot, act := act }] }

/-- The image of the context in a slot has still to be written (R35, R153). -/
def State.imageOwed (s : State) (slot : Nat) : Bool := s.owed.any fun w => w.slot == slot && match w.act with
  | .image _ => true
  | _ => false

/-- Every page of the image used (R21), then its lines written (R153), once no page of it is being moved (R35); `none` where a
translation fails (R355). -/
def State.park (s : State) (c : Ctx) : Option State :=
  if s.imageWaits c then some (s.owe c.part c.asid c.slot (.image c))
  else if s.imageOk c then
    let va := (c.cr 17).toNat
    let s := (imagePages va c.lanes).foldl (fun s a => match s.imageLeaf c.part c.asid a .write with
      | some l => s.useLeaf c.cluster c.part c.asid a .write l
      | none => s) s
    some ((List.range (imageGranules c.lanes / 2)).foldl (fun s k => s.parkLine c k) s)
  else none

/-- Line `k` of an image as a read at its home gives it; one of a discarded page reads zero (R36). -/
def State.imageLine (s : State) (p asid va k : Nat) : Option (LineVal × Bool) :=
  match s.imageLeaf p asid (va + 128 * k) .read with
  | none => none
  | some l => if l.d then some (0, false) else some (s.homeLine (l.pa (va + 128 * k) / 128) l.key false).1

/-- Lines of an image are read: their pages are used (R21), and each line is read at its home (R73, R74), or counted where its page is
discarded (R36). -/
def State.readImage (s : State) (c : Ctx) (va : Nat) (ks : List Nat) : State :=
  let pages := (ks.map fun k => (va + 128 * k) / 65536).eraseDups
  let s := pages.foldl (fun s n => match s.imageLeaf c.part c.asid (65536 * n) .read with
    | none => s.walkMet c.part c.asid (65536 * n)
    | some l => s.useLeaf c.cluster c.part c.asid (65536 * n) .read l) s
  ks.eraseDups.foldl (fun s k => match s.imageLeaf c.part c.asid (va + 128 * k) .read with
    | none => s
    | some l => if l.d then s.countDiscarded c.part 1 else (s.homeLine (l.pa (va + 128 * k) / 128) l.key false).2) s

/-- What reading an image again gives (R368): a context, poison in CTLB (0x0F5), an unreachable image (0x175) or a
malformed CTLB (0x174). -/
inductive ImageRead where
  | ok (c : Ctx)
  | fault (code : Nat)
  deriving DecidableEq, Repr

/-- A pending record read again (R362), with the marks that the poison of its lines gives a vector or mask result (R363). What the image
does not hold, a fault found when data returned and the producer's own word, stays with the parked context (log 13). -/
def pendingOf (tag : Nat) (w0 w1 w2 : Word) (wide : Nat) (marks : BitVec 8192) (old : Option Pending) : Option Pending :=
  if !w0.getLsbD 0 then none else
    let r := bits w0 8 6
    let main : RegVal := match bits w0 1 2 with
      | 0 => { reg := .s r, val := w1.toNat }
      | 1 => { reg := .v r, val := wide, marks := marks }
      | 2 => { reg := .m r, val := wide, marks := marks }
      | _ => { reg := .c (bits w0 16 5), val := w1.toNat }
    let hs : List RegVal := if w0.getLsbD 14 then [{ reg := .c 7, val := w2.toNat }] else []
    let vl : List RegVal := if w0.getLsbD 15 then [{ reg := .c 0, val := w2.toNat }] else []
    let b : Pending := old.getD { tag := tag, word := 0, slot := 0, done := true, vals := [] }
    some { b with tag := tag, done := true, vals := main :: (hs ++ vl), flags := BitVec.ofNat 5 (bits w0 21 5) }

/-- The bits of a control register that its layout gives a meaning; the others are reserved and read 0 (R196-R198, R224, R230, R281,
R283, R357, R360). -/
def ctlLayout : Nat → Word
  | 3 => 0x377
  | 4 => 0xFFFFFFFFFFFF
  | 5 => 0x1FFFFFFFFFFFF
  | 6 => 0xF
  | 8 => 0x8000FFFF0000003F
  | 9 => 0x1F1FFFFFFF3F
  | 10 => 0x1FF
  | 11 => 0x1FFFFFFFF
  | 13 => 7
  | 14 => 0x1F
  | 15 | 16 | 25 => 0xFFFFFFFF
  | 19 => 0xF3FF
  | 21 => 0x107
  | 22 => 0xFFF
  | 23 => 0x8000000FFFFFFFFF
  | 24 => 3
  | 26 => 0xFFFFFFFF000001FF
  | 28 => 0xF
  | _ => 0xFFFFFFFFFFFFFFFF

/-- The posted causes of a context read again: the one that its image holds, as PCAUSE and PTVAL say, and those that were posted to
it while it was parked (R330, R361). One of the matrix path is due before the first word after the resume (R291). -/
def postedOf (pcause ptval : Word) (old : List Posted) : List Posted :=
  let held := (old.find? fun p => p.kept).getD { code := 0, tval := 0, unit := 0 }
  let unit := if held.unit = 3 then 0 else held.unit
  (if pcause.getLsbD 63 then [{ held with code := bits pcause 0 9, tval := ptval, unit := unit, kept := false }] else [])
    ++ old.filter fun p => !p.kept

/-- CTLB sets a reserved bit, or holds a value that no context has. -/
def ctlbBits (w : Nat → Word) : Bool :=
  bits (w 0) 34 30 != 0 || bits (w 1) 32 32 != 0 || bits (w 5) 9 54 != 0 || ((List.range 29).any fun n => w (32 + n) &&& ~~~ctlLayout n != 0) || 4 < bits (w 45) 0 3
    || ((List.range 7).any fun n => w (7 + 3 * n) &&& ~~~0x3FFFF07 != 0)

/-- CTLB breaks a rule of R368: a reserved bit is set, or the grant lies outside LMIN to LREQ. -/
def Ctx.ctlbBad (c : Ctx) (w : Nat → Word) : Bool :=
  let l := (w 33).toNat
  ctlbBits w || !(l = 0 ∨ l = 1 ∨ l = 2 ∨ l = 4 ∨ l = 8 ∨ l = 16 ∨ l = 32) || l < c.lmin || c.lreq < l

/-- A context with the word, the control registers and the posted cause that CTLB gives (R361), and with the events that were posted
while it was parked (R359). The producer that runs again keeps its first issue's PASS where it is still the one that was to (R228). -/
def Ctx.withCtlb (c : Ctx) (w : Nat → Word) : Ctx :=
  let ipc := w 0
  let d : Ctx := { c with
    pc := ipc.setWidth 32, super := ipc.getLsbD 32, rpt := ipc.getLsbD 33,
    rword := if ipc.getLsbD 33 then (w 1).setWidth 32 else 0,
    rpop := if ipc.getLsbD 33 then [w 2, w 3, w 4] else [],
    pslot := if ipc.getLsbD 33 then bits (w 43) 32 1 else 0,
    redo := if ipc.getLsbD 33 && c.rpt && ipc.setWidth 32 == c.pc then c.redo else none,
    creg := (List.range 29).foldl (fun r n => r.setIfInBounds n (w (32 + n))) c.creg,
    posted := postedOf (w 5) (w 6) c.posted, news := 0 }
  if c.news = 0 then d else d.setCr 28 (d.cr 28 ||| c.news.setWidth 64)

/-- The fetch that an `mfetch` entry of MQ queues as it stands (R290), with the number `id`: its lines are pinned again at the resume.
One that a handler wrote and R290 would not accept has no lines (log 55). -/
def MEntry.newFetch (e : MEntry) (id : Nat) : Fetch :=
  let nb := (e.ops.getD 2 0).toNat
  let w := (tshA e.tsh).bits
  let base := e.ops.getD 0 0
  let stride := e.ops.getD 1 0
  let ls := if nb = 0 ∨ 65536 < nb then [] else (fetchLineVas base stride (tshM e.tsh) (32 * nb * w / 8)).getD []
  { rows := tshM e.tsh, nb := nb, base := base, stride := stride, width := w, id := id
    lines := (if 256 < ls.length then [] else ls).map fun q => { va := q.1, line := 0, key := 0, ca := 0 } }

/-- The entries of MQ read again, each with its fetch (R290, R298): an `mfetch` queues its own, which `kept` holds where the entry is as
it was, and an `mpm` that consumes one takes the oldest. `left` are those that no entry has consumed. -/
def pairFetches (kept : List Fetch) : List MEntry → Nat → List Fetch → List MEntry × List Fetch
  | [], _, left => ([], left)
  | e :: r, id, left => match e.body with
    | .mfetch _ =>
      let f := ((e.fid.bind fun k => kept.find? fun g => g.id == k).getD (e.newFetch id))
      let (es, l) := pairFetches kept r (id + 1) (left ++ [f])
      ({ e with fid := some f.id } :: es, l)
    | .mpm _ true _ =>
      let (es, l) := pairFetches kept r id (left.drop 1)
      ({ e with fetch := left.head? } :: es, l)
    | _ =>
      let (es, l) := pairFetches kept r id left
      (e :: es, l)

/-- A context with the pending results and the queued matrix entries that CTLB gives (R362, R298), their vector values and marks read
apart. The results stay in the order of their producers (R168). The result of an `mext` that is queued again has still to come; a late
fault of a producer with SA = 0, which has no record, stays with the context (log 13). `id` numbers the fetches that MQ queues anew. -/
def Ctx.withPending (c : Ctx) (w : Nat → Word) (wide : Nat → Nat) (marks : Nat → BitVec 8192) (id : Nat) : Ctx :=
  let record (n : Nat) (old : Option Pending) : Option Pending :=
    pendingOf n (w (3 * n + 4)) (w (3 * n + 5)) (w (3 * n + 6)) (wide n) (marks n) old
  let again := c.pend.filterMap fun (p : Pending) => if p.tag = 0 then some p else record p.tag (some p)
  let fresh := ((List.range 7).map (· + 1)).filterMap fun n => if c.pend.any fun p => p.tag == n then none else record n none
  let bodies := ((List.range 16).map fun k => w (64 + 4 * k)).takeWhile (· != 0)
  let mq := bodies.zipIdx.filterMap fun (b, k) => c.queueEntry k b [w (65 + 4 * k), w (66 + 4 * k), w (67 + 4 * k)]
  let queued (p : Pending) : Bool := mq.any fun e => e.tag == p.tag && e.tag != 0
  let mine (f : Fetch) : Bool := c.mq.any fun (e : MEntry) => e.fid == some f.id
  let (mq, fetches) := pairFetches (c.fetchList.filter mine) mq id (c.fetchList.filter fun f => !mine f)
  { c with
    pend := (again ++ fresh).map fun (p : Pending) => if queued p then { p with done := false } else p
    mq := mq, fetches := fetches }

/-- A context read from its image, over the parked context `c` (R361, R368). -/
def State.unpark (s : State) (c : Ctx) (va : Nat) : ImageRead :=
  let line (k : Nat) : Option (LineVal × Bool) := s.imageLine c.part c.asid va k
  let ctlb := (List.range 8).map line
  if ctlb.any (·.isNone) then .fault 0x175
  else if ctlb.any (fun x => match x with
      | some (_, p) => p
      | none => false) then .fault 0x0F5
  else
    let w (i : Nat) : Word := match ctlb.getD (i / 16) none with
      | some (d, _) => d.extractLsb' (64 * (i % 16)) 64
      | none => 0
    let l := (w 33).toNat
    if c.ctlbBad w then .fault 0x174
    else if !(imagePages va l).all (fun a => (s.imageLeaf c.part c.asid a .read).isSome) then .fault 0x175
    else
      let c1 := c.withCtlb w
      let gran (g : Nat) : Granule × Bool := match line (g / 2) with
        | some (d, p) => (d.extractLsb' (512 * (g % 2)) 512, p)
        | none => (0, false)
      let c2 := (List.range (imageGranules l - 16)).foldl (fun (a : Ctx) k =>
        let (x, p) := gran (16 + k)
        (a.loadGranule (16 + k) x).markGranule (16 + k) p) c1
      let wide (tag : Nat) : Nat :=
        (List.range l).foldr (fun k acc => acc * 2 ^ 512 + (gran (wideGranule l tag k)).1.toNat) 0
      let marks (tag : Nat) : BitVec 8192 := (List.range l).foldl (fun (m : BitVec 8192) k =>
        if (gran (wideGranule l tag k)).2 then setBits m (256 * k) 256 (2 ^ 256 - 1) else m) 0
      .ok (c2.withPending w wide marks s.serial)

/-- Numbers are taken for the fetches that a queue read again may hold (R298). -/
def State.pastQueue (s : State) : State := { s with serial := s.serial + 16 }

/-- The state after `unpark` has read its image: CTLB, and where that is sound every granule of the grant that it gives. -/
def State.unparkRead (s : State) (c : Ctx) (va : Nat) : State :=
  match s.unpark c va with
  | .ok d => (s.readImage c va (List.range (imageGranules d.lanes / 2))).pastQueue
  | .fault code =>
    let t := s.readImage c va (List.range 8)
    match if code = 0x175 then s.imageLine c.part c.asid va 2 else none with
    | some (d, _) => t.pagesMissed c .read ((imagePages va (min 32 (bits d 64 64))).drop 1)
    | none => t

end Sys2Proof.Machine
end

