-- ==== Sys2Proof/Machine/Agent.lean ====
section
/-! DEFINITION. Memory as the hardware's own agents reach it, at homes and never through the windows (01 R27, 05 R124):
the graph engine, the tile engines, the bank units, the stager and the pool engines. -/

namespace Sys2Proof.Machine

/-- The agents of the base and system dies, as an origin and as a holder of translations. -/
def sysAgent : Nat := 128

/-- A leaf in the device-register region. -/
def Leaf.onDevice (l : Leaf) : Bool := region (65536 * l.frame) == .device

/-- The page of an address is one of device registers, whatever its leaf permits. -/
def State.devicePage (s : State) (p asid va : Nat) : Bool :=
  match s.walkLeaf p asid va with
  | .leaf l => l.onDevice
  | .fault .. => false

/-- A page reached by an agent for a partition and ASID (R20, R27): its leaf, or why it leads nowhere. The device registers are no
agent's to reach (log 46): the policy's fault comes before those of the leaf's permissions and of D. DESIGN CHOICE: the whole window
region is kind 7 to an agent, the holes between the windows too (log 97). -/
def State.agentReach (s : State) (o p asid va : Nat) (acc : Acc) : Except NoLoc Leaf :=
  if 2 ^ 55 ≤ va then .error (.fault 1 0 none)
  else if windowBase ≤ va then .error (.fault 1 7 none)
  else match s.translate o p asid va acc with
    | .fault c k e =>
      .error (if (c == 2 && k < 2 || c == 1 && k == 5) && s.devicePage p asid va then .fault 2 5 none else .fault c k e)
    | .leaf l => if l.onDevice then .error (.fault 2 5 none) else .ok l

/-- The same for an access that a migration of the page makes wait (R35). -/
def State.agentLeaf (s : State) (o p asid va : Nat) (acc : Acc) : Except NoLoc Leaf :=
  match s.agentReach o p asid va acc with
  | .error e => .error e
  | .ok l => if l.m && acc == .write then .error .wait else .ok l

/-- Class, kind and ctl.tval of a translation that fails at `va`: the address of the table entry for a poisoned one (R76). -/
abbrev Failed := Nat × Nat × Nat

/-- A page of an agent's fault with its address. -/
def Failed.at_ (va c k : Nat) (e : Option Nat) : Failed := (c, k, e.getD va)

/-- Bytes within one line read at their home (R124), and whether the line is poisoned. -/
def State.leafRead (s : State) (o : Nat) (l : Leaf) (va n : Nat) : (Nat × Bool) × State :=
  let pa := l.pa va
  if l.d then ((0, false), s) else
  match region pa with
  | .fast | .cap =>
    let ((d, p), s) := s.homeServe (originOf o) (pa / 128) l.key (l.ca == 2)
    ((lineGet d (pa % 128) n, p), s)
  | .device => ((0, false), s)
  | _ => s.readBeyond l.part pa n

/-- Bytes within one line written at their home (R124), with poison where the source carried it (R75). -/
def State.leafWrite (s : State) (l : Leaf) (va : Nat) (d : LineVal) (mask : ByteMask) (p : Bool) : State :=
  let pa := l.pa va
  match region pa with
  | .fast | .cap => s.homeApply (pa / 128) l.key (l.ca == 2) d mask p
  | .device => s
  | _ =>
    let n := popCount mask.toNat 128
    s.writeBeyond l.part pa n (lineGet d (pa % 128) n) p

/-- `n` bytes at `va` read by an agent: the value, or class, kind and address of the first fault. Poison is class 3,
kind 0 (R76). -/
def State.agentGet (s : State) (o p asid va n : Nat) : Except Failed (Nat × State) :=
  (pieces va n).foldr (fun (q : Nat × Nat) (k : Nat → State → Except Failed (Nat × State)) sh s =>
    match s.agentLeaf o p asid q.1 .read with
    | .error (.fault c kd e) => .error (Failed.at_ q.1 c kd e)
    | .error .wait => .error (Failed.at_ q.1 1 3 none)
    | .ok l =>
      let s := s.useLeaf o p asid q.1 .read l
      let ((x, bad), s) := s.leafRead o l q.1 q.2
      if bad then .error (3, 0, q.1 / 128 * 128)
      else match k (sh + 8 * q.2) s with
        | .error e => .error e
        | .ok (y, s) => .ok (x * 2 ^ sh + y, s)) (fun _ s => .ok (0, s)) 0 s

/-- What an access that ended in a cause has met (R73, R74): the entries of a walk that led nowhere, the table entry that the address
names, or the walk and the line of a memory access of a partition and address space, as the read of a chain's last header is. -/
def State.metAt (s : State) (p asid c k a : Nat) : State :=
  if s.latent.isEmpty then s
  else if c == 1 && 2 ≤ k && k ≤ 5 || c == 2 && (k < 2 || 4 ≤ k) then s.walkMet p asid a
  else if c == 3 && k == 1 then s.meetEntry a
  else if (c == 3 && k == 0) || (c == 1 && k == 6) then
    let s := s.walkMet p asid a
    match s.walkLeaf p asid a with
    | .leaf l => if l.ca == 2 || s.beneathL2 (l.pa a / 128) then s.meet (l.pa a / 128) else s
    | .fault .. => s
  else s

/-- The lines of an agent's read that came to nothing were read, and their pages walked, up to the one that it ended at (R73, R74). -/
def State.agentMet (s : State) (p asid va n : Nat) : State :=
  if s.latent.isEmpty then s else
    ((List.range (ceilDiv (va % 128 + n) 128)).foldl (fun (acc : Bool × State) k =>
      let a := va / 128 * 128 + 128 * k
      if acc.1 then acc
      else
        let s := acc.2.walkMet p asid a
        match s.agentLeaf sysAgent p asid a .read with
        | .ok l =>
          let r := s.leafRead sysAgent l a 1
          (r.1.2, r.2)
        | .error _ => (true, s)) (false, s)).2

/-- `n` bytes at `va` within one line written by an agent; or why not: a fault, or a page that is being moved (R35). -/
def State.agentPut (s : State) (o p asid va n x : Nat) : Except NoLoc State :=
  match s.agentLeaf o p asid va .write with
  | .error e => .error e
  | .ok l =>
    let s := s.useLeaf o p asid va .write l
    .ok (s.leafWrite l va (linePut 0 (va % 128) n x) (byteSpan (va % 128) n) false)

/-- `n` words from `va` read one after another. -/
def State.agentWords (s : State) (o p asid : Nat) : Nat → Nat → Except Failed (List Word × State)
  | _, 0 => .ok ([], s)
  | va, n + 1 => match s.agentGet o p asid va 8 with
    | .error e => .error e
    | .ok (x, s) => match s.agentWords o p asid (va + 8) n with
      | .error e => .error e
      | .ok (r, s) => .ok (BitVec.ofNat 64 x :: r, s)

/-- The lines of some ranges, address and length in bytes, that lie in discarded pages, each line once (R36). -/
def State.discardedIn (s : State) (o p asid : Nat) (rs : List (Nat × Nat)) : Nat :=
  ((rs.flatMap fun (a, n) => (List.range ((a + n + 127) / 128 - a / 128)).map fun k => a / 128 + k).eraseDups.filter fun l =>
    match s.agentReach o p asid (128 * l) .read with
    | .ok lf => lf.d
    | .error _ => false).length

/-- An agent's reads of discarded pages are counted (R36). -/
def State.countIn (s : State) (o p asid : Nat) (rs : List (Nat × Nat)) : State :=
  s.countDiscarded p (s.discardedIn o p asid rs)

/-- A tile's bytes within one block, and the block's poison (R63, R75). -/
def State.tileGet (s : State) (o n off len : Nat) : Nat × Bool :=
  let a := tileAddr o n off
  (lineGet (s.tmem.line (a / 128)) (a % 128) len, s.tmem.poisoned (a / 128))

/-- A tile's bytes within one block written, poison as the source carried it (R75). -/
def State.tilePut (s : State) (o n off : Nat) (d : LineVal) (mask : ByteMask) (p : Bool) : State :=
  { s with tmem := s.tmem.merge (tileAddr o n off / 128) d mask p }

/-! ### Contexts by slot -/

/-- The context of a ready-pool slot, in focus or not. -/
def State.ctxOf (s : State) (slot : Nat) : Option Ctx :=
  if s.cur.status != .idle && s.cur.slot == slot then some s.cur
  else s.others.find? fun c => c.slot == slot && c.status != .idle

/-- The context of a slot changed. -/
def State.mapCtx (s : State) (slot : Nat) (f : Ctx → Ctx) : State :=
  if s.cur.status != .idle && s.cur.slot == slot then { s with cur := f s.cur }
  else { s with others := s.others.map fun c => if c.slot == slot && c.status != .idle then f c else c }

/-- A node of the ready pool by its slot. -/
def State.node (s : State) (slot : Nat) : Option Node := s.nodes.find? fun n => n.slot == slot

/-- The node of a slot changed. -/
def State.mapNode (s : State) (slot : Nat) (f : Node → Node) : State :=
  { s with nodes := s.nodes.map fun n => if n.slot == slot then f n else n }

/-- The contexts resident on a cluster (R142): on a hart. -/
def State.resident (s : State) (cluster : Nat) : List Ctx :=
  (s.cur :: s.others).filter fun c => c.status == .running && c.cluster == cluster

/-- The share of a context in lanes (R142). -/
def Ctx.share (c : Ctx) : Nat := if c.lanes = 0 then 0 else max 4 c.lanes

/-- The lanes that no resident context of a cluster holds (R142). -/
def State.freeLanes (s : State) (cluster : Nat) : Nat := 32 - ((s.resident cluster).map Ctx.share).sum

/-- The lanes of a request or floor code (R133). -/
def laneCode (k : Nat) : Nat := if k = 0 ∨ 7 ≤ k then 0 else 2 ^ (k - 1)

/-- The largest power of two not above `n`; 0 for 0. -/
def pow2Floor (n : Nat) : Nat := if n = 0 then 0 else 2 ^ ilog2 n

/-- The halving loop of R143 over (context slot, floor, weight, order, target). -/
def targetLoop : Nat → List (Nat × Nat × Nat × Nat × Nat) → List (Nat × Nat × Nat × Nat × Nat)
  | 0, l => l
  | fuel + 1, l =>
    let total := (l.map fun (_, _, _, _, t) => if t = 0 then 0 else max 4 t).sum
    if total ≤ 32 then l else
      let better (a b : Nat × Nat × Nat × Nat × Nat) : Bool :=
        let (_, _, w, o, t) := a
        let (_, _, w', o', t') := b
        w * t' < w' * t || (w * t' == w' * t && o' < o)
      let pick := (l.filter fun (_, f, _, _, t) => f < t).foldl (fun acc x => match acc with
        | none => some x
        | some y => if better x y then some x else some y) none
      match pick with
      | none => l
      | some (c, _) => targetLoop fuel (l.map fun (x : Nat × Nat × Nat × Nat × Nat) =>
          if x.1 = c then (x.1, x.2.1, x.2.2.1, x.2.2.2.1, x.2.2.2.2 / 2) else x)

/-- The targets of a cluster's short-vector contexts recomputed (R143). DESIGN CHOICE: a context that has claimed a request of 0 leaves W
and the sum of shares at once, though it keeps its grant until its next `setvl` (log 97). -/
def State.retarget (s : State) (cluster : Nat) : State :=
  let cs := (s.resident cluster).filter fun c => 0 < c.lreq && c.lreq ≤ 8
  let w0 := (cs.map (·.wgt)).sum
  let wt (c : Ctx) : Nat := if w0 = 0 then 1 else c.wgt
  let w := if w0 = 0 then cs.length else w0
  let start := cs.map fun c =>
    let g := max (pow2Floor (32 * wt c / max 1 w)) 1
    (c.slot, c.lmin, wt c, c.order, min (max g c.lmin) c.lreq)
  (targetLoop 64 start).foldl (fun s (slot, _, _, _, t) => s.mapCtx slot fun c => { c with target := t }) s

/-- A context identifies itself to the tiles by its node's slot; the tiles that a node owns on its cluster. -/
def State.ownedTiles (s : State) (slot : Nat) : List Tile :=
  s.tiles.filter fun t => tileKind t.owner != 0 && tileNode t.owner == slot

end Sys2Proof.Machine
end

