-- ==== Sys2Proof/Machine/Budget.lean ====
section
/-! DEFINITION. Activity budgets of the HBM channels (19 R350): what waits, and the time base's boundaries. -/

namespace Sys2Proof.Machine

/-- Ordinary work of an activity on a channel may proceed (R350). -/
def State.mayWork (s : State) (ch : Nat) (a : Activity) : Bool := 0 < s.credit ch a

/-- Lines by channel, each with their number. -/
def tally (chs : List Nat) : List (Nat × Nat) := chs.eraseDups.map fun c => (c, chs.count c)

/-- Lines of ordinary work, by channel, granted one by one while each channel's credit lasts (R350), and those that still wait. -/
def State.payLines (s : State) (a : Activity) (owed : List (Nat × Nat)) : List (Nat × Nat) × State :=
  owed.foldl (fun (acc : List (Nat × Nat) × State) q =>
    let k := min q.2 (acc.2.credit q.1 a).toNat
    (if k = q.2 then acc.1 else acc.1 ++ [(q.1, q.2 - k)], if k = 0 then acc.2 else acc.2.charge q.1 a k)) ([], s)

/-- A boundary of the time base (R350): unspent credit is lost and debt carried forward. -/
def State.refill (s : State) : State :=
  let acts : List Activity := [.bank, .stage, .knead, .scrub, .copy]
  let base := acts.map fun a => (baseKey a, (s.allowance a : Int))
  let owed := s.credits.filterMap fun e => match s.creditAt e.1, acts.find? fun a => a.num == e.1 % 8 with
    | some c, some a => if e.1 < 4000 && c < 0 then some (e.1, c + s.allowance a) else none
    | _, _ => none
  { s with credits := base ++ owed }

end Sys2Proof.Machine
end

