-- ==== Sys2Proof/Machine/Graph.lean ====
section
/-! DEFINITION. The graph engine: node and launch records and their checks (06 R132-R139), submission and decrements
(R135, R140), hand-over of tiles (R51, R134), barriers (R148), working sets (03 R62, R68), effective classes (19 R340). -/

namespace Sys2Proof.Machine

/-! ### Fields of a record (R132, R133) -/

def wordAt (ws : List Word) (k : Nat) : Word := ws.getD k 0
/-- KIND (R133). -/
def recKind (ws : List Word) : Nat := bits (wordAt ws 0) 16 4
/-- PRED (R133). -/
def recPred (ws : List Word) : Nat := bits (wordAt ws 0) 48 16
/-- PRIO (R133). -/
def recPrio (ws : List Word) : Nat := bits (wordAt ws 0) 26 2
/-- LREQ's code (R133). -/
def recLreq (ws : List Word) : Nat := bits (wordAt ws 0) 23 3
/-- LMIN's code (R133). -/
def recLmin (ws : List Word) : Nat := bits (wordAt ws 0) 20 3
/-- ICAP's code (R133). -/
def recIcap (ws : List Word) : Nat := bits (wordAt ws 0) 0 3
/-- The successor count (R132). -/
def recSuccs (ws : List Word) : Nat := bits (wordAt ws 8) 59 5
/-- The working-set entry count (R132). -/
def recWsets (ws : List Word) : Nat := bits (wordAt ws 9) 58 6

/-- An operand declaration taken apart (R134): mode, successor index, first tile, number of tiles. -/
structure Opd where
  mode : Nat
  sidx : Nat
  tile : Nat
  nt   : Nat
  deriving DecidableEq, Repr

/-- The declarations in use of a record (R134). -/
def recOpds (ws : List Word) : List Opd :=
  (List.range 6).filterMap fun k =>
    let d := wordAt ws (2 + k)
    if d.getLsbD 63 then some { mode := bits d 61 2, sidx := bits d 56 5, tile := bits d 24 8, nt := bits d 40 8 } else none

/-- A declaration breaks no rule of R134 and R136. -/
def opdOk (succs : Nat) (d : Word) : Bool :=
  if d.getLsbD 63 then
    bits d 48 8 == 0 && bits d 32 8 == 0 && bits d 0 24 == 0 && 1 ≤ bits d 40 8 && bits d 40 8 ≤ 128
      && bits d 24 8 ≤ 127 && bits d 24 8 + bits d 40 8 ≤ 128 && (bits d 56 5 == 31 || bits d 56 5 < succs)
  else d == 0

/-- No two declarations overlap (R136). -/
def opdsApart : List Opd → Bool
  | [] => true
  | a :: r => r.all (fun b => a.tile + a.nt ≤ b.tile || b.tile + b.nt ≤ a.tile) && opdsApart r

/-- The alignment that CODE has for an engine kind: the block of R307, the word of R312, the record of R325, the block
of R270. -/
def codeAlign : Nat → Nat
  | 1 => 64 | 2 => 8 | 3 => 128 | 4 => 32 | _ => 1

/-- A record is well formed (R136). `handler` is a submission under R356, where the successor count counts as 0. -/
def recordOk (ws : List Word) (handler : Bool) : Bool :=
  let c := wordAt ws 0
  let n := if handler then 0 else recSuccs ws
  let engine := 1 ≤ recKind ws && recKind ws ≤ 4
  bits c 3 5 == 0 && recKind ws < 6 && bits c 28 3 ≤ 4 && recLreq ws != 7 && recLmin ws != 7 && recIcap ws != 7
    && recLmin ws ≤ recLreq ws && (recLreq ws == 0) == (recLmin ws == 0)
    && (recIcap ws == 0 || recLreq ws ≤ recIcap ws)
    && (!engine || (recLreq ws == 0 && recLmin ws == 0 && recIcap ws == 0))
    && ((List.range 6).all fun k => opdOk n (wordAt ws (2 + k))) && opdsApart (recOpds ws)
    && recSuccs ws ≤ 16 && bits (wordAt ws 8) 55 4 == 0 && bits (wordAt ws 8) 0 4 == 0
    && recWsets ws ≤ 32 && bits (wordAt ws 9) 55 3 == 0 && bits (wordAt ws 9) 0 4 == 0
    && (wordAt ws 10).toNat % 128 == 0 && (wordAt ws 13).toNat % 65536 == 0 && (wordAt ws 14).toNat % 32 == 0
    && (wordAt ws 1).toNat % codeAlign (recKind ws) == 0 && wordAt ws 15 == 0
    && (!handler || recKind ws == 5)

/-! ### Reading a record -/

/-- Why a submission does not happen: the record is refused (R136), or reading it faults with class, kind and address. -/
inductive NoSubmit where
  | refused
  | fault (cls kind addr : Nat)
  deriving DecidableEq, Repr

/-- A record read by the graph engine (R132): its sixteen words, its successor list and its working-set list. -/
structure Rec where
  words : List Word
  succs : List Word
  wset  : List (Word × Word)
  deriving DecidableEq, Repr

/-- Words as pairs, low word first. -/
def pairUp : List Word → List (Word × Word)
  | a :: b :: r => (a, b) :: pairUp r
  | _ => []

/-- A node record, its successor list and its working-set list read (R62, R132), and checked (R136). -/
def State.readRecord (s : State) (p asid : Nat) (va : Word) (handler : Bool) : Except NoSubmit (Rec × State) :=
  let low55 (x : Word) : Nat := bits x 4 51 * 16
  if windowed va.toNat then .error (.fault 1 7 va.toNat) else
  if va.toNat % 128 ≠ 0 then .error .refused else
  match s.agentWords sysAgent p asid va.toNat 16 with
  | .error (c, k, a) => .error (.fault c k a)
  | .ok (ws, s) =>
    if !recordOk ws handler then .error .refused else
    let n := if handler then 0 else recSuccs ws
    match s.agentWords sysAgent p asid (low55 (wordAt ws 8)) n with
    | .error (c, k, a) => .error (.fault c k a)
    | .ok (sl, s) =>
      if sl.any (fun x => x.toNat % 128 != 0 || bits x 55 9 != 0) then .error .refused else
      match s.agentWords sysAgent p asid (low55 (wordAt ws 9)) (2 * recWsets ws) with
      | .error (c, k, a) => .error (.fault c k a)
      | .ok (wl, s) =>
        let s := s.countIn sysAgent p asid [(va.toNat, 128), (low55 (wordAt ws 8), 8 * n), (low55 (wordAt ws 9), 16 * recWsets ws)]
        .ok ({ words := ws, succs := sl, wset := pairUp wl }, s)

/-- What the reads of a submission that came to nothing have met: the record's `n` bytes, and where the fault is elsewhere that (R73,
R74). -/
def State.submitMet (s : State) (p asid : Nat) (va : Word) (n : Nat) (e : NoSubmit) : State :=
  match e with
  | .fault c k a =>
    let t := s.agentMet p asid va.toNat n
    if windowed va.toNat then s else if va.toNat ≤ a && a < va.toNat + n then t else t.metAt p asid c k a
  | .refused => if va.toNat % 128 ≠ 0 then s else s.agentMet p asid va.toNat n

/-- The same for a record of which only that it was not accepted is known. -/
def State.recordMet (s : State) (p asid : Nat) (va : Word) (handler : Bool) : State :=
  match s.readRecord p asid va handler with
  | .error e => s.submitMet p asid va 128 e
  | .ok _ => s.agentMet p asid va.toNat 128

/-! ### Working sets (R62-R64, R68) -/

/-- An entry of a working-set list that the stager serves: V = 1, no reserved bit, COUNT at least 1 (R62). DESIGN CHOICE: a COUNT beyond
65,536 makes an entry bad as COUNT = 0 does (log 95). -/
def wsetValid (e : Word × Word) : Bool :=
  e.1.getLsbD 0 && bits e.1 55 9 == 0 && bits e.1 4 12 == 0 && bits e.2 32 32 == 0 && bits e.2 0 32 != 0
    && bits e.2 0 32 ≤ 65536

/-- The pages of an entry, as VA / 64 KiB. -/
def wsetPages (e : Word × Word) : List Nat := (List.range (bits e.2 0 32)).map fun k => bits e.1 16 39 + k

/-- A skipped page recorded in STGSTAT, the first since VALID was cleared (R63). -/
def State.stageSkip (s : State) (p cls kind page : Nat) : State :=
  let r := s.partReg p
  if r.stgstat.getLsbD 63 then s
  else
    let v : Word := BitVec.ofNat 64 (2 ^ 63 + causeCode cls 6 kind * 2 ^ 54 + page % 2 ^ 39)
    { s with parts := s.parts.setIfInBounds p { r with stgstat := v } }

/-- The stager serves the partition (R63). -/
def State.stageOn (s : State) (p : Nat) : Bool := (s.partReg p).stgctl.getLsbD 31

/-- The stager reads a node's working set (R62): entries and pages that fail are skipped and recorded. While EN = 0 the stager does
not serve the partition, and records nothing (log 86). -/
def State.stageRead (s : State) (p asid : Nat) (wset : List (Word × Word)) : State :=
  if !s.stageOn p then s else
  wset.foldl (fun s e =>
    if !e.1.getLsbD 0 then s
    else if !wsetValid e then s.stageSkip p 1 3 (bits e.1 16 39)
    else (wsetPages e).foldl (fun s pg => match s.agentLeaf sysAgent p asid (65536 * pg) .read with
      | .ok l => s.useLeaf sysAgent p asid (65536 * pg) .read l
      | .error (.fault c k _) => (s.walkMet p asid (65536 * pg)).stageSkip p c k pg
      | .error .wait => s) s) s

/-- The leaf entry of a page of a working set, when it translates. -/
def State.pageLeaf (s : State) (p asid page : Nat) : Option Leaf :=
  match s.agentLeaf sysAgent p asid (65536 * page) .read with
  | .ok l => some l
  | .error _ => none

/-- 4.096 µs in tenths of a ck (R2). -/
def periodTenths : Nat := 110592

/-- Whole units of `unit` × 4.096 µs in a number of ck. -/
def periodsIn (ck unit : Nat) : Nat := if unit = 0 then 0 else 10 * ck / (periodTenths * unit)

/-- A ready node is held for staging (R64). Each look at the node judges its pages afresh: a hold that has ended begins again
where a page is demoted, or EN is set again, before the dispatch and before WAIT has passed (log 86). -/
def State.stageHeld (s : State) (n : Node) : Bool :=
  s.stageOn n.part
    && 10 * (s.time - n.ready) < 27000 * bits (s.partReg n.part).stgctl 0 16
    && n.wset.any fun e => wsetValid e && !e.1.getLsbD 2 && (wsetPages e).any fun pg =>
      match s.pageLeaf n.part n.asid pg with
      | some l => l.tier
      | none => false

/-- The pages that a node's working set names. -/
def Node.pages (n : Node) : List Nat := (n.wset.filter wsetValid).flatMap wsetPages

/-- The page is declared by another node of the pool or in execution (R68). -/
def State.declaredElsewhere (s : State) (slot p asid page : Nat) : Bool :=
  s.nodes.any fun n => n.slot != slot && n.part == p && n.asid == asid && n.pages.contains page

/-- Staging settled when a node retires (R68): pages of entries with DEM = 1 that are fast-tier are marked first for
demotion, unless another node declares them, when an existing mark is cleared. A mark names the leaf's entry. -/
def State.stageSettle (s : State) (n : Node) : State :=
  (n.wset.filter wsetValid).foldl (fun s e => (wsetPages e).foldl (fun s pg =>
    match s.pageLeaf n.part n.asid pg with
    | none => s
    | some l =>
      let drop := s.marked.filter (· != (n.part, l.entry))
      if s.declaredElsewhere n.slot n.part n.asid pg then { s with marked := drop }
      else if e.1.getLsbD 3 && !l.tier && !l.big then { s with marked := drop ++ [(n.part, l.entry)] }
      else s) s) s

/-! ### The ready pool (R135) -/

/-- A partition and ASID name a record's VA. -/
def recKey (p asid : Nat) : Nat := 4096 * p + asid

/-- The lowest ready-pool slot that no entry uses. -/
def State.freeSlot (s : State) : Option Nat := (List.range 65536).find? fun k => s.nodes.all fun n => n.slot != k

/-- A record entered into the pool as one entry (R135). -/
def State.enterPool (s : State) (n : Node) : State :=
  let n := { n with serial := s.serial, ready := s.time, stat := if n.pred = 0 then .ready else .waiting,
                    cls := recPrio n.words }
  { s with nodes := s.nodes ++ [n], serial := s.serial + 1
           records := if s.records.contains (recKey n.part n.asid, n.va) then s.records
                      else s.records ++ [(recKey n.part n.asid, n.va)] }

/-- The entry of a record read for submission, before changes. -/
def nodeOf (p asid slot : Nat) (va : Word) (r : Rec) : Node :=
  { slot := slot, serial := 0, part := p, asid := asid, va := va, words := r.words, pred := recPred r.words,
    stat := .waiting, succs := r.succs, wset := r.wset, image := wordAt r.words 13, crec := wordAt r.words 14 }

/-- A node record submitted (R132-R136, R309); a full pool refuses it. -/
def State.submit (s : State) (p asid : Nat) (va : Word) : Except NoSubmit State :=
  match s.readRecord p asid va false with
  | .error e => .error e
  | .ok (r, s) =>
    if 65536 ≤ s.nodes.length then .error .refused else
    match s.freeSlot with
    | none => .error .refused
    | some k => .ok ((s.enterPool (nodeOf p asid k va r)).stageRead p asid r.wset)

/-- One successor entry of the node of a slot settled (R135); a count in a page that is being moved waits (R35). DESIGN CHOICE: poison of
the record's line does not stop the graph engine, which is no consumer of R75's table (log 97). -/
def State.decrementOne (s : State) (slot p asid : Nat) (va : Word) : State :=
  let mine (n : Node) : Bool := n.part == p && n.asid == asid && n.va == va
  if s.nodes.any (fun n => mine n && 0 < n.pred) then
    { s with nodes := s.nodes.map fun n =>
        if mine n && 0 < n.pred then
          { n with pred := n.pred - 1, stat := if n.pred = 1 then .ready else n.stat,
                   ready := if n.pred = 1 then s.time else n.ready }
        else n }
  else if s.records.contains (recKey p asid, va) then s.logEvent 0 0 p 1 2
  else match s.agentLeaf sysAgent p asid va.toNat .write with
    | .error (.fault c k _) => (s.walkMet p asid va.toNat).logEvent (causeCode c 6 k) 0 p 1 2
    | .error .wait => s.owe p asid slot (.decrement va)
    | .ok l =>
      let s := s.useLeaf sysAgent p asid va.toNat .write l
      let ((x, _), s) := s.leafRead sysAgent l va.toNat 8
      if x / 2 ^ 48 = 0 then s.logEvent 0 (l.pa va.toNat) p 1 2
      else s.leafWrite l va.toNat (linePut 0 (va.toNat % 128) 8 (x - 2 ^ 48)) (byteSpan (va.toNat % 128) 8) false

/-- A write that is owed for a slot already is made before those that follow it in the retirement (R35, R155). -/
def State.decrementNext (s : State) (slot p asid : Nat) (va : Word) : State :=
  if s.owed.any fun w => w.slot == slot then s.owe p asid slot (.decrement va) else s.decrementOne slot p asid va

/-- Every successor of a completed node decremented, in list order (R135). -/
def State.decrement (s : State) (n : Node) : State :=
  (n.succs ++ n.extra).foldl (fun s va => s.decrementNext n.slot n.part n.asid va) s

/-! ### Launches (R137-R140) -/

/-- The level descriptors of a launch record, outermost first. -/
def launchLevels (ws : List Word) : List Word :=
  (List.range (bits (wordAt ws 0) 0 3 + 1)).map fun k => wordAt ws (8 + 2 * k)

/-- DOM, SCOPE and EXT of a level (R138). -/
def levDom (d : Word) : Nat := bits d 0 4
def levScope (d : Word) : Nat := bits d 4 3
def levExt (d : Word) : Nat := bits d 8 17
def levGcl (d : Word) : Nat := bits d 32 6

/-- The least scope of a domain (R139). -/
def leastScope : Nat → Nat
  | 0 => 0 | 1 => 0 | 2 => 1 | 3 => 3 | 4 => 2 | 5 => 3 | _ => 4

/-- Strictly decreasing. -/
def decreasing : List Nat → Bool
  | a :: b :: r => b < a && decreasing (b :: r)
  | _ => true

/-- A context's lane floor as R139 counts it on a cluster. -/
def floorShare (ws : List Word) : Nat := if recLreq ws = 0 then 0 else max 4 (laneCode (recLmin ws))

/-- A launch record is well formed (R137-R139), given its body and, where TAIL is not zero, its tail. DESIGN CHOICE: the low word of a level
descriptor beyond NLV may hold anything (log 97). -/
def launchOk (ws : List Word) (body : Rec) (tail : Option Rec) : Bool :=
  let lv := launchLevels ws
  let n := lv.length
  let doms := lv.map levDom
  let perCluster := ((lv.filter fun d => levDom d ≤ 2 && levDom d != 0).map levExt).foldl (· * ·) 1
  bits (wordAt ws 0) 3 61 == 0 && bits (wordAt ws 3) 12 52 == 0
    && (List.range 4).all (fun k => wordAt ws (4 + k) == 0) && (List.range 8).all (fun k => wordAt ws (24 + k) == 0)
    && (List.range 8).all (fun k => wordAt ws (9 + 2 * k) == 0)
    && lv.all (fun d => bits d 38 26 == 0 && bits d 25 7 == 0 && !d.getLsbD 7 && 1 ≤ levExt d && levExt d ≤ 65536
        && levScope d ≤ 4 && leastScope (levDom d) ≤ levScope d && levDom d ≤ 6
        && (if levDom d = 3 then 2 ≤ levGcl d && levGcl d ≤ 48 && levExt d == levGcl d else levGcl d == 0)
        && (levDom d != 1 || levExt d == 1)
        && (levDom d != 0 || (levExt d ≤ laneCode (recLreq body.words) && levExt d == pow2Floor (levExt d))))
    && decreasing doms
    && (doms.getD (n - 1) 9 == 1 || (doms.getD (n - 1) 9 == 0 && 2 ≤ n && doms.getD (n - 2) 9 == 1))
    && ((lv.filter fun d => 1 < levDom d).map levExt).foldl (· * ·) 1 ≤ 65536
    && (!doms.contains 2 || (perCluster ≤ 8 && perCluster * floorShare body.words ≤ 32))
    && recKind body.words == 0
    && (tail.isNone || recSuccs body.words ≤ 15)

/-- The coordinates of instance `i` over the levels above the context level (R140). -/
def coordsOf : List Nat → Nat → List Nat
  | [], _ => []
  | _ :: r, i =>
    let inner := r.foldl (· * ·) 1
    (i / inner) :: coordsOf r (i % inner)

/-- IMG(L) (R140). -/
def imgBytes (l : Nat) : Nat := 65536 * ceilDiv (32 + 12 * l) 64

/-- The image capacity of a record in lanes (R140). -/
def capLanes (ws : List Word) : Nat := if recIcap ws = 0 then laneCode (recLreq ws) else laneCode (recIcap ws)

/-- A launch record submitted (R140): the instances in order, then the tail. Every instruction cache of the partition's
clusters is invalidated (R122). -/
def State.submitLaunch (s : State) (p asid : Nat) (va : Word) : Except NoSubmit State :=
  if windowed va.toNat then .error (.fault 1 7 va.toNat) else
  if va.toNat % 256 ≠ 0 then .error .refused else
  match s.agentWords sysAgent p asid va.toNat 32 with
  | .error (c, k, a) => .error (.fault c k a)
  | .ok (ws, s) =>
    if bits (wordAt ws 3) 0 12 ≠ asid then .error .refused else
    match s.readRecord p asid (wordAt ws 1) false with
    | .error e => .error e
    | .ok (body, s) =>
      let tailRead : Except NoSubmit (Option Rec × State) :=
        if wordAt ws 2 = 0 then .ok (none, s) else
          match s.readRecord p asid (wordAt ws 2) false with
          | .error e => .error e
          | .ok (t, s) => .ok (some t, s)
      match tailRead with
      | .error e => .error e
      | .ok (tail, s) =>
        if !launchOk ws body tail then .error .refused else
        let lv := launchLevels ws
        let outer := (lv.filter fun d => 1 < levDom d).map levExt
        let n := outer.foldl (· * ·) 1
        if 65536 < s.nodes.length + n + (if tail.isSome then 1 else 0) then .error .refused else
        let s := s.countIn sysAgent p asid [(va.toNat, 256)]
        let serial := s.serial
        let one (s : State) (i : Nat) : State :=
          match s.freeSlot with
          | none => s
          | some k =>
            let b := nodeOf p asid k (wordAt ws 1) body
            let l : LaunchOf :=
              { va := va, serial := serial, doms := lv.map levDom, exts := lv.map levExt,
                scopes := lv.map levScope, index := i, coords := coordsOf outer i, tail := wordAt ws 2 }
            let ex : List Word := if wordAt ws 2 = 0 then [] else [wordAt ws 2]
            let im := b.image + BitVec.ofNat 64 (i * imgBytes (capLanes body.words))
            let cr := b.crec + BitVec.ofNat 64 (32 * i)
            s.enterPool { b with launch := some l, extra := ex, image := im, crec := cr }
        let s := (List.range n).foldl one s
        let s := match tail with
          | none => s
          | some t => match s.freeSlot with
            | none => s
            | some k =>
              let b := nodeOf p asid k (wordAt ws 2) t
              s.enterPool { b with pred := b.pred + n }
        let own (o : Nat) : Bool := (s.partReg p).pclu.getLsbD o
        let s := { s with icache := s.icache.filter fun (c : ILine) => !own c.owner }
        let s := s.stageRead p asid body.wset
        .ok (match tail with
          | none => s
          | some t => s.stageRead p asid t.wset)

/-! ### Tiles (R51, R54, R134) -/

/-- The contents that a proofed tile may show afterwards: each 128-byte block keeps its bytes or is zero (R54). -/
def State.scrubTile (s : State) (cluster n : Nat) : State :=
  (List.range 512).foldl (fun s b =>
    if Config.choice s.nd (2000000 + 65536 * n + b) then
      { s with tmem := (s.tmem.setLine ((cluster * 128 + n) * 512 + b) 0).setPoison ((cluster * 128 + n) * 512 + b) false }
    else s) s

/-- The region record that a proofed tile belongs to is dropped. -/
def State.dropRegion (s : State) (cluster first : Nat) : State :=
  { s with regions := s.regions.filter fun r => !(r.cluster == cluster && r.first == first) }

/-- A tile becomes free (R51), a proofed one with the contents of R54; PART names the partition that last held it. -/
def State.freeTile (s : State) (t : Tile) : State :=
  let s := if tileKind t.owner = 3 then (s.scrubTile t.cluster t.n).dropRegion t.cluster (bits t.owner 16 8) else s
  s.setTile { t with owner := ownerField 0 0 (tilePart t.owner) 0 0 }

/-- The earliest submitted entry of a record that still waits (R135). -/
def State.waitingOf (s : State) (p asid : Nat) (va : Word) : Option Node :=
  (s.nodes.filter fun n => n.part == p && n.asid == asid && n.va == va && 0 < n.pred).foldl (fun acc n => match acc with
    | none => some n
    | some m => if n.serial < m.serial then some n else some m) none

/-- An engine kind (R133). -/
def Node.isEngine (n : Node) : Bool := 1 ≤ recKind n.words && recKind n.words ≤ 4

/-- The successor that a declaration of a retiring node passes tile `t` to (R134). A tile that a context has parked with an engine,
and that no command has taken, passes to none (R303, R311). -/
def State.passesTo (s : State) (n : Node) (t : Tile) : Option Node :=
  if tileKind t.owner = 2 && !n.isEngine then none else
  match (recOpds n.words).find? (fun d => d.tile ≤ t.n && t.n < d.tile + d.nt) with
  | none => none
  | some d =>
    if d.mode = 0 ∨ d.sidx = 31 ∨ (tileKind t.owner = 3 ∧ d.mode ≠ 3) then none
    else match n.succs[d.sidx]? with
      | none => none
      | some va => s.waitingOf n.part n.asid va

/-- The tiles of a retiring node pass to successors or become free (R51, R134); with `pass` false none passes (R347). DESIGN CHOICE: of
a proofed region of which only some tiles are a declared output, these pass and the others become free, and the region is a region no
more (log 95). -/
def State.releaseTiles (s : State) (n : Node) (pass : Bool) : State :=
  (s.ownedTiles n.slot).foldl (fun s t =>
    match if pass then s.passesTo n t else none with
    | none => s.freeTile t
    | some m =>
      let w := if tileKind t.owner = 3 then ownerField 3 0 (tilePart t.owner) (bits t.owner 16 8) m.slot
               else ownerField 1 0 (tilePart t.owner) 0 m.slot
      s.setTile { t with owner := w }) s

/-- The level of a domain in a launch. -/
def LaunchOf.levelOf (l : LaunchOf) (dom : Nat) : Option Nat := if l.doms.contains dom then some (l.doms.idxOf dom) else none

/-- The gang that a node belongs to: its launch and group (R146). -/
def Node.gang (n : Node) : Option (Nat × List Nat) :=
  n.launch.bind fun l => (l.levelOf 3).map fun g => (l.serial, l.coords.take g)

/-! ### Barriers (R148) -/

/-- The group of an instance at level `lvl`: its coordinates above that level. -/
def groupCoords (l : LaunchOf) (lvl : Nat) : List Nat := l.coords.take lvl

/-- The barrier of a group, as it stands or as it begins (R148): its size counts the instances that have not retired. -/
def State.barrier (s : State) (l : LaunchOf) (lvl : Nat) : Barrier :=
  match s.bars.find? (fun b => b.serial == l.serial && b.level == lvl && b.coords == groupCoords l lvl) with
  | some b => b
  | none => { serial := l.serial, level := lvl, coords := groupCoords l lvl,
              size := (s.nodes.filter fun n => match n.launch with
                | some m => m.serial == l.serial && groupCoords m lvl == groupCoords l lvl
                | none => false).length }

/-- A barrier written back. -/
def State.setBarrier (s : State) (b : Barrier) : State :=
  { s with bars := b :: s.bars.filter fun c => !(c.serial == b.serial && c.level == b.level && c.coords == b.coords) }

/-- The phase advances when every member that remains has arrived (R148). -/
def Barrier.settle (b : Barrier) : Barrier :=
  if 0 < b.arrived.length ∧ b.arrived.length = b.size then { b with phase := b.phase + 1, arrived := [] } else b

/-- A retiring member leaves the barriers of its groups (R148, R155). -/
def State.leaveBarriers (s : State) (n : Node) : State :=
  match n.launch with
  | none => s
  | some l => (List.range l.doms.length).foldl (fun s lvl =>
      let b := s.barrier l lvl
      if (1 ≤ l.doms.getD lvl 0 ∧ l.doms.getD lvl 0 ≤ 3) then
        s.setBarrier (Barrier.settle { b with size := b.size - 1, arrived := b.arrived.filter (· != n.slot) })
      else s) s

/-! ### Effective classes (R340, R342) -/

/-- AGE of a partition (R339). -/
def State.age (s : State) (p : Nat) : Nat := bits (s.partReg p).psched 16 8

/-- The effective class of a ready node (R340). -/
def State.classOf (s : State) (n : Node) : Nat :=
  match n.stat with
  | .waiting | .ready => recPrio n.words - periodsIn (s.time - n.ready) (s.age n.part)
  | _ => n.cls

/-- A free tile may be taken by a context of the partition (R51). -/
def Tile.takeable (t : Tile) (p : Nat) : Bool := tileKind t.owner == 0 && (t.clear || tilePart t.owner == p)

/-- A declared tile is available to a node on a cluster (R342): free and takeable, or held for the node. -/
def State.tileAvailable (s : State) (n : Node) (o k : Nat) : Bool :=
  let t := s.tile o k
  t.takeable n.part || ((tileKind t.owner == 1 || tileKind t.owner == 3) && tileNode t.owner == n.slot)

/-- The tiles that a node declares. -/
def Node.declared (n : Node) : List Nat := (recOpds n.words).flatMap fun d => (List.range d.nt).map fun k => d.tile + k

/-- The cluster on which tiles are held for a node (R145). -/
def State.heldOn (s : State) (n : Node) : Option Nat := (s.ownedTiles n.slot).head?.map fun t => t.cluster

/-- A placement keeps to the cluster, or to the die, that a node's launch has fixed for it (R139, R146). -/
def Node.mayUse (n : Node) (o : Nat) : Bool := match n.fixed with
  | none => true
  | some k => if k < 1000 then k == o else o / 32 == k - 1000

/-- The partition owns a cluster. -/
def State.ownsCluster (s : State) (p o : Nat) : Bool := o < 128 && (s.partReg p).pclu.getLsbD o

/-- A cluster on which a node's tiles do not keep it from being placed (R52, R145, R342). -/
def State.tilesAllow (s : State) (n : Node) (o : Nat) : Bool :=
  s.ownsCluster n.part o && n.mayUse o && (s.heldOn n).all (· == o) && n.declared.all (s.tileAvailable n o)

/-! ### Handler nodes (R356) -/

/-- A handler record submitted with the fault inputs (R356). -/
def State.submitHandler (s : State) (p asid : Nat) (va : Word) (cls : Nat) (inputs : List Word) (faulted : Option Nat) :
    Option State :=
  match s.readRecord p asid va true with
  | .error _ => none
  | .ok (r, s) =>
    match s.freeSlot with
    | none => none
    | some k =>
      let b := nodeOf p asid k va r
      let low := min (recPrio r.words) cls
      let n : Node := { b with pred := 0, succs := [], inputs := inputs, faulted := faulted }
      let s := (s.enterPool n).mapNode k fun n => { n with cls := low, words := n.words.set 0 (setBits (wordAt n.words 0) 26 2 low) }
      some (s.stageRead p asid r.wset)

end Sys2Proof.Machine
end

