-- ==== Sys2Proof/Machine/Fits.lean ====
section
/-! DEFINITION. Where a node fits (06 R139, R142, R145, R146; 19 R342, R343, R348), and the class that a holder of tiles takes from
those who wait for them (19 R342). -/

namespace Sys2Proof.Machine

/-! ### Gangs and drains on a cluster (R146, R343) -/

/-- The gang of a slot's node. -/
def State.gangOf (s : State) (slot : Nat) : Option (Nat × List Nat) := (s.node slot).bind Node.gang

/-- A gang, other than the node's own, holds a cluster: one of its members runs, there or on another of its clusters (R146). -/
def State.gangOn (s : State) (o slot : Nat) : Bool :=
  s.gangs.any fun g => g.2.contains o && s.gangOf slot != some g.1
    && s.nodes.any fun m => m.gang == some g.1 && m.stat == .running

/-- The node of a slot and another one are of one gang. -/
def State.gangMates (s : State) (slot k : Nat) : Bool := (s.gangOf slot).isSome && s.gangOf slot == s.gangOf k

/-- A cluster is reserved for the drain of another node, not of the same gang (R343). -/
def State.reservedFor (s : State) (o slot : Nat) : Bool :=
  s.drains.any fun d => d.2.1 != slot && !s.gangMates slot d.2.1 && d.2.2.contains o

/-- The clusters of the gang of a slot's node, where it has been placed. -/
def State.gangHome (s : State) (slot : Nat) : List Nat :=
  match s.gangOf slot with
  | none => []
  | some g => ((s.gangs.find? fun x => x.1 == g).map (·.2)).getD []

/-- While a gang runs, each of its clusters holds lane-holding contexts of the gang alone (R146): a context of a gang goes to a cluster
only where that is so there and on every cluster of its gang, and where none of these is being drained for another node. -/
def State.gangFits (s : State) (o slot : Nat) : Bool :=
  (s.gangOf slot).isNone || ((o :: s.gangHome slot).all fun k =>
    (s.resident k).all fun c => c.share == 0 || s.gangOf c.slot == s.gangOf slot) && (s.gangHome slot).all fun k => !s.reservedFor k slot

/-- A context that owns tiles stays off its cluster, where it would hold lanes, until a gang that has the cluster has retired (R146). -/
def State.keptOut (s : State) (c : Ctx) (o : Nat) : Bool :=
  c.share != 0 && !(s.ownedTiles c.slot).isEmpty && s.gangs.any fun g => g.2.contains o && s.gangOf c.slot != some g.1

/-- A whole-cluster context is resident (R145). -/
def State.wholeOn (s : State) (o : Nat) : Bool := (s.resident o).any fun c => 8 < c.lreq

/-! ### Where a node fits (R142, R145, R146, R342) -/

/-- Nodes fit on a cluster together, beside what is resident there: the tiles of each allow it, and so do harts and lanes. -/
def State.fitsOn (s : State) (n : Node) (ms : List Node) (o : Nat) : Bool :=
  let count := ms.length
  let lreq := laneCode (recLreq n.words)
  ms.all (s.tilesAllow · o) && (count ≤ 1 || n.declared.isEmpty)
    && (n.isEngine || ((s.resident o).length + count ≤ 8 && s.gangFits o n.slot
        && (lreq == 0 || (!s.reservedFor o n.slot && !s.gangOn o n.slot && !s.wholeOn o
            && (if lreq ≤ 8 then count * floorShare n.words ≤ s.freeLanes o else count ≤ 1 && s.freeLanes o == 32)))))

/-- The ready instances that are placed together with a node: those of its gang group, or of its cluster group (R139, R146). An
instance that is placed again after a replay goes alone to the cluster that its group has. -/
def State.mates (s : State) (n : Node) : List Node :=
  let group (l : LaunchOf) (lvl : Nat) : List Node := s.nodes.filter fun m => m.stat == .ready && (match m.launch with
    | some k => k.serial == l.serial && k.coords.take lvl == l.coords.take lvl
    | none => false)
  match n.launch with
  | none => [n]
  | some l =>
    if n.fixed.any (· < 1000) then [n]
    else match l.levelOf 3 with
      | some g => group l g
      | none => match l.levelOf 2 with
        | some g => group l g
        | none => [n]

/-- The clusters of a partition, those of a drain where the node has one (R343). -/
def State.clustersFor (s : State) (n : Node) : List Nat :=
  match s.drains.find? fun d => d.2.1 == n.slot with
  | some d => d.2.2
  | none => (List.range 128).filter (s.ownsCluster n.part)

/-- A list turned by a free number of places (log 2). -/
def turned (k : Nat) (l : List Nat) : List Nat := let r := k % max 1 l.length; l.drop r ++ l.take r

/-- The instances of a gang group at each coordinate of the gang level (R139). -/
def gangMembers (g size : Nat) (ms : List Node) : List (List Node) :=
  (List.range size).map fun c => ms.filter fun m => match m.launch with
    | some k => k.coords.getD g 0 == c
    | none => false

/-- The cluster on which tiles are held for one of some nodes (R145). -/
def State.heldFor (s : State) (ms : List Node) : Option Nat := ms.findSome? s.heldOn

/-- Clusters for the members of a gang, from those that are open to it: each member for which tiles are held goes to its cluster, each
other to one of the clusters that are left. -/
def State.gangOver (s : State) (n : Node) (open_ : List Nat) (members : List (List Node)) : Option (List Nat) :=
  let held := members.filterMap s.heldFor
  (members.foldl (fun (acc : Option (List Nat × List Nat)) ms => acc.bind fun (cs, left) =>
    match s.heldFor ms with
    | some o => if open_.contains o && s.fitsOn n ms o then some (cs ++ [o], left) else none
    | none => (left.find? (s.fitsOn n ms)).map fun o => (cs ++ [o], left.filter (· != o)))
    (some ([], open_.filter fun o => !held.contains o))).map (·.1)

/-- Clusters for the members of a gang, in the order of their coordinates, on one die where an outer level asks for it (R139, R146). -/
def State.gangClusters (s : State) (n : Node) (l : LaunchOf) (g : Nat) (ms : List Node) : Option (List Nat) :=
  let ok := (turned (Config.pick s.nd 10) (s.clustersFor n)).filter fun o => s.freeLanes o == 32
  let sets := if l.doms.contains 4 then (List.range 4).map fun d => ok.filter fun o => o / 32 == d else [ok]
  sets.findSome? fun c => s.gangOver n c (gangMembers g (l.exts.getD g 1) ms)

/-- Where the mates of a node would go: each with its cluster; none where they do not fit (R145, R146). Among equal clusters the
choice is free; partly used ones come before empty ones for nodes that hold few lanes. A replay avoids the cluster that was reset
where another can take it (R348). -/
def State.assign (s : State) (n : Node) : Option (List (Node × Nat)) :=
  let ms := s.mates n
  let gang : Option (LaunchOf × Nat) := match n.launch with
    | none => none
    | some l => if n.fixed.any (· < 1000) then none else (l.levelOf 3).map fun g => (l, g)
  match gang with
  | some (l, g) => (s.gangClusters n l g ms).map fun cs => ms.map fun m => (m, match m.launch with
      | some k => cs.getD (k.coords.getD g 0) 0
      | none => 0)
  | none =>
    let ok := (turned (Config.pick s.nd 10) (s.clustersFor n)).filter (s.fitsOn n ms)
    let lreq := laneCode (recLreq n.words)
    let ok := if ok.any fun o => o + 1 != n.stopped then ok.filter fun o => o + 1 != n.stopped else ok
    let part := if 0 < lreq ∧ lreq ≤ 8 then ok.filter fun o => !(s.resident o).isEmpty else []
    let ok := if part.isEmpty then ok else part
    match ok with
    | [] => none
    | o :: _ => some (ms.map fun m => (m, o))

/-! ### Raised classes (R342) -/

/-- A ready node waits because a dispatched one holds one of its declared tiles (R342): it can be placed nowhere now, and the
holder's cluster would be one that it could use. -/
def State.waitsOn (s : State) (m n : Node) : Bool :=
  m.stat == .ready && m.part == n.part && m.slot != n.slot && m.mayUse n.cluster && (s.heldOn m).all (· == n.cluster)
    && ((s.ownedTiles n.slot).any fun t => t.cluster == n.cluster && m.declared.contains t.n) && (s.assign m).isNone

/-- A dispatched node that holds a tile for which a ready node of a more urgent class waits takes that class until it gives the tile
up (R342). -/
def State.raisedClass (s : State) (n : Node) : Nat :=
  (s.nodes.filter fun m => s.waitsOn m n).foldl (fun c m => min c (s.classOf m)) (s.classOf n)

end Sys2Proof.Machine
end

