-- ==== Sys2Proof/Machine/EngineOps.lean ====
section
/-! DEFINITION. The tile engines: copies (16 R306-R308), the compute layout of weights (R305), and the Rally sort
(R313-R317). -/

namespace Sys2Proof.Machine

/-! ### Reading a copy's source (R308) -/

/-- Where bytes of a copy lie: memory by VA, or the tile space of the cluster by offset. -/
inductive Place where
  | mem
  | tiles
  deriving DecidableEq, Repr

/-- The page of a VA among the leaves that a command captured. -/
def leafAt (pages : List (Nat × Leaf)) (va : Nat) : Option Leaf :=
  (pages.find? fun p => p.1 == va / 65536).map (·.2)

/-- Bytes within one line or block of a copy's source, and its poison (R75); a read of memory is the cluster's origin's (R108). -/
def State.srcPiece (s : State) (o : Nat) (pl : Place) (pages : List (Nat × Leaf)) (a n : Nat) : (Nat × Bool) × State :=
  match pl with
  | .tiles => (s.tileGet o (a / 65536) (a % 65536) n, s)
  | .mem => match leafAt pages a with
    | some l => s.leafRead o l a n
    | none => ((0, false), s)

/-- `n` bytes, at most a line, of a copy's source. -/
def State.srcBytes (s : State) (o : Nat) (pl : Place) (pages : List (Nat × Leaf)) (a n : Nat) : (Nat × Bool) × State :=
  (pieces a n).foldr (fun (q : Nat × Nat) (k : Nat → Bool → Nat → State → (Nat × Bool) × State) sh bad acc s =>
    let ((x, p), s) := s.srcPiece o pl pages q.1 q.2
    k (sh + 8 * q.2) (bad || p) (acc + x * 2 ^ sh) s) (fun _ bad acc s => ((acc, bad), s)) 0 false 0 s

/-- The writes of one run of `len` bytes from `src` to `dst`, one for each destination line, as read now (R308). -/
def State.copyRun (s : State) (o : Nat) (sp dp : Place) (pages : List (Nat × Leaf)) : Nat → Nat → Nat → Nat →
    List EngWrite × State
  | 0, _, _, _ => ([], s)
  | fuel + 1, src, dst, len =>
    if len = 0 then ([], s) else
      let n := min len (128 - dst % 128)
      let ((x, p), s) := s.srcBytes o sp pages src n
      let w : EngWrite := { tile := dp == .tiles, addr := dst, data := linePut 0 (dst % 128) n x,
                            mask := byteSpan (dst % 128) n, poison := p }
      let (r, s) := s.copyRun o sp dp pages fuel (src + n) (dst + n) (len - n)
      (w :: r, s)

/-- The rows of a two-dimensional copy, one after another (R307). -/
def State.copyRows (s : State) (o : Nat) (sp dp : Place) (pages : List (Nat × Leaf)) (src dst : Int) (len : Nat)
    (ss ds : Int) : Nat → Nat → List EngWrite × State
  | 0, _ => ([], s)
  | n + 1, r =>
    let (a, s) := s.copyRun o sp dp pages (len + 1) (src + r * ss).toNat (dst + r * ds).toNat len
    let (b, s) := s.copyRows o sp dp pages src dst len ss ds n (r + 1)
    (a ++ b, s)

/-- The bits of an element of FW that mean something, of those that it is stored in: bits [7:6] of an FP6 element are ignored on read and
written 0 (R192). -/
def keptBits (t : Ty) (w : Nat) : Nat :=
  match t with
  | .e3m2 | .e2m3 => 6
  | _ => w

/-- Element `c` of a packed row of W at `w` bits, from the row's first byte, its low `m` bits (R192). -/
def State.rowElem (s : State) (o : Nat) (pages : List (Nat × Leaf)) (row w m c : Nat) : (Nat × Bool) × State :=
  let bit := w * c
  let ((x, p), s) := s.srcBytes o .mem pages (row + bit / 8) (max 1 (w / 8))
  ((low (x / 2 ^ (bit % 8)) (min m w), p), s)

/-- A span of 64 columns of one row of a K-block, or fewer, as bits, with zeros from N up (R305). -/
def State.rowSpan (s : State) (o : Nat) (pages : List (Nat × Leaf)) (row w m cols : Nat) : Nat → Nat → (Nat × Bool) × State
  | 0, _ => ((0, false), s)
  | n + 1, c =>
    let ((x, p), s) := if c < cols then s.rowElem o pages row w m c else ((0, false), s)
    let ((y, q), s) := s.rowSpan o pages row w m cols n (c + 1)
    ((x + 2 ^ w * y, p || q), s)

/-- The writes of transform 2 (R305, R307): block `j` of 128 bytes of K-block `b`, over all of them, for elements of `w` bits of which the
low `m` are kept. -/
def State.weightWrites (s : State) (o : Nat) (pages : List (Nat × Leaf)) (src : Int) (ss : Int) (tile k w m cols : Nat) :
    List (Nat × Nat) → List EngWrite × State
  | [] => ([], s)
  | (b, j) :: rest =>
    let perRow := 16 * w
    let base := 65536 * (tile + b % k) + 512 * w * (b / k) + 128 * j
    let bit := 1024 * j
    let row := bit / (128 * w)
    let col := bit % (128 * w) / w
    let n := 1024 / w
    let rowsIn := max 1 (128 / perRow)
    let line (s : State) : (Nat × Bool) × State :=
      (List.range rowsIn).foldr (fun r (acc : (Nat × Bool) × State) =>
        let ((y, q), s) := acc
        let va := (src + (32 * b + row + r : Nat) * ss).toNat
        let ((x, p), s) := s.rowSpan o pages va w m cols (min n 128) col
        ((x + 2 ^ (w * min n 128) * y, p || q), s)) ((0, false), s)
    let ((x, p), s) := line s
    let e : EngWrite := { tile := true, addr := base, data := BitVec.ofNat 1024 x, mask := fullMask, poison := p }
    let (r, s) := s.weightWrites o pages src ss tile k w m cols rest
    (e :: r, s)

/-! ### Proofed shapes and copy jobs (R304, R306, R307) -/

/-- The formats of a proofed region. -/
def proofTypes : List Ty := [.e4m3, .e5m2, .e3m2, .e2m3, .e2m1, .bf16, .f16, .i8, .i4, .i2]

/-- The storage width of FW (R304). -/
def storeBits (t : Ty) : Nat :=
  match t with
  | .bf16 | .f16 => 16
  | .e2m1 | .i4 => 4
  | .i2 => 2
  | _ => 8

/-- A shape of R304 that is well formed and fits `k` tiles: format, N and K-blocks. -/
def shapeOf (x : Word) (k : Nat) : Option (Ty × Nat × Nat) :=
  match Ty.ofCode (BitVec.ofNat 5 (bits x 32 5)) with
  | none => none
  | some t =>
    if bits x 37 27 != 0 || bits x 0 8 != 0 || 127 < bits x 8 8 || !proofTypes.contains t
        || k * 128 / storeBits t < bits x 16 16 + 1 then none
    else some (t, bits x 8 8 + 1, bits x 16 16 + 1)

/-- A copy, its operands checked: where each side lies, the runs of bytes, and the weight shape of transform 2. -/
structure CopyJob where
  sp    : Place
  dp    : Place
  src   : Int
  dst   : Int
  len   : Nat
  rows  : Nat
  ss    : Int
  ds    : Int
  shape : Option (Ty × Nat × Nat) := none
  tiles : Nat := 0
  deriving DecidableEq, Repr

/-- The bytes of one row on the source side. -/
def CopyJob.srcLen (j : CopyJob) : Nat := match j.shape with
  | some (t, n, _) => (storeBits t * n + 7) / 8
  | none => j.len

/-- The rows on the source side. -/
def CopyJob.srcRows (j : CopyJob) : Nat := match j.shape with
  | some (_, _, kb) => 32 * kb
  | none => j.rows

/-- The runs of bytes of a side: address and length. -/
def runsOf (a st : Int) (rows len : Nat) : List (Int × Nat) := (List.range rows).map fun (r : Nat) => (a + r * st, len)

/-- The runs of the source. -/
def CopyJob.srcRuns (j : CopyJob) : List (Int × Nat) := runsOf j.src j.ss j.srcRows j.srcLen
/-- The runs of the destination; transform 2 writes whole tiles' blocks. -/
def CopyJob.dstRuns (j : CopyJob) : List (Int × Nat) := runsOf j.dst j.ds j.rows j.len

/-- The pages of runs of VAs, in order, each with the first byte that lies in it. -/
def pagesOfRuns (rs : List (Int × Nat)) : List (Nat × Nat) :=
  (rs.flatMap fun (a, n) =>
    let a := (a % (2 ^ 64 : Nat)).toNat
    (List.range ((a + n - 1) / 65536 + 1 - a / 65536)).map fun k => (a / 65536 + k, max a (65536 * (a / 65536 + k)))).foldl
    (fun (acc : List (Nat × Nat)) q => if acc.any fun p => p.1 == q.1 then acc else acc ++ [q]) []

/-- The tiles of a copy, the destination's after the source's, each with the first byte of the tile space that it touches there. -/
def CopyJob.touches (j : CopyJob) : List (Nat × Nat) :=
  let src := if j.sp == Place.tiles then pagesOfRuns j.srcRuns else []
  let dst := match j.shape with
    | some _ => (List.range j.tiles).map fun k => (j.dst.toNat / 65536 + k, 65536 * (j.dst.toNat / 65536 + k))
    | none => if j.dp == Place.tiles then pagesOfRuns j.dstRuns else []
  src ++ dst.filter fun d => !src.any fun q => q.1 == d.1

/-- The tiles of a copy. -/
def CopyJob.tileList (j : CopyJob) : List Nat := j.touches.map (·.1)

/-- The distinct lines of discarded pages that runs read (R36). -/
def discardedRuns (pages : List (Nat × Leaf)) (rs : List (Int × Nat)) : Nat :=
  ((rs.flatMap fun (a, n) => (List.range ((a.toNat + n - 1) / 128 + 1 - a.toNat / 128)).filterMap fun k =>
    let l := a.toNat / 128 + k
    match leafAt pages (128 * l) with
    | some f => if f.d then some l else none
    | none => none).eraseDups).length

/-- A side of a command block (R307): its address, or none where a tile side has a reserved bit set. -/
def blockSide (tiles : Bool) (x : Word) : Option Int :=
  if tiles then (if bits x 7 9 != 0 || bits x 32 32 != 0 then none else some (65536 * bits x 0 7 + bits x 16 16 : Nat))
  else some (x.toNat : Int)

/-- The runs of a tile side stay within the tiles from its first one upward (R306, R307). -/
def tileRunsOk (tiles : Bool) (x : Word) (rs : List (Int × Nat)) : Bool :=
  !tiles || rs.all fun (a, n) => (65536 * bits x 0 7 : Nat) ≤ a && a + n ≤ 65536 * 128

/-- A command block parsed (R307); `none` is misuse. -/
def blockJob (ws : List Word) : Option CopyJob :=
  let w (k : Nat) : Word := ws.getD k 0
  let cc := w 0
  let xf := bits cc 0 2
  let st := cc.getLsbD 2
  let dt := cc.getLsbD 3
  let k1 := bits cc 16 7
  if bits cc 4 12 != 0 || bits cc 23 41 != 0 || w 7 != 0 || xf == 3 || (xf != 2 && k1 != 0) then none
  else match blockSide st (w 1), blockSide dt (w 2) with
    | some a, some b =>
      let sp : Place := if st then .tiles else .mem
      let dp : Place := if dt then .tiles else .mem
      if xf = 2 then
        match shapeOf (w 6) (k1 + 1) with
        | none => none
        | some sh =>
          if st || !dt || bits (w 2) 16 16 != 0 || 128 < bits (w 2) 0 7 + k1 + 1 then none
          else some { sp := sp, dp := dp, src := a, dst := b, len := 0, rows := 0, ss := (w 4).toInt, ds := 0,
                      shape := some sh, tiles := k1 + 1 }
      else
        let len := if xf = 0 then (w 3).toNat else bits (w 3) 0 32
        let rows := if xf = 0 then 1 else bits (w 3) 32 32
        if len = 0 ∨ 2 ^ 32 < len ∨ rows = 0 then none
        else
          let ss := if xf = 0 then 0 else (w 4).toInt
          let ds := if xf = 0 then 0 else (w 5).toInt
          let j : CopyJob := { sp := sp, dp := dp, src := a, dst := b, len := len, rows := rows, ss := ss, ds := ds }
          if tileRunsOk st (w 1) j.srcRuns && tileRunsOk dt (w 2) j.dstRuns then some j else none
    | _, _ => none

/-- The words of a number, low word first. -/
def wordsOf (n x : Nat) : List Word := (List.range n).map fun k => BitVec.ofNat 64 (x / 2 ^ (64 * k))

/-- The copy of an `sld` or `sst` between the tiles from byte `off` x 128 of tile `n` on and memory (R306). -/
def moveJob (load : Bool) (n : BitVec 7) (off : BitVec 9) (a len : Nat) : CopyJob :=
  let t : Int := 65536 * n.toNat + 128 * off.toNat
  if load then { sp := .mem, dp := .tiles, src := a, dst := t, len := len, rows := 1, ss := 0, ds := 0 }
  else { sp := .tiles, dp := .mem, src := t, dst := a, len := len, rows := 1, ss := 0, ds := 0 }

/-! ### Applying a copy -/

/-- One write of a copy (R75, R308): a tile's block is written, and a write of memory is sent to its home (R108). -/
def State.engApply (s : State) (c : EngCmd) (w : EngWrite) : State :=
  if w.tile then s.tilePut c.cluster (w.addr / 65536) (w.addr % 65536) w.data w.mask w.poison
  else match leafAt c.pages w.addr with
    | some l =>
      let pa := l.pa w.addr
      if region pa == .fast || region pa == .cap then s.send c.cluster (pa / 128) l.key (l.ca == 2) w.data w.mask w.poison
      else if region pa == .device then s
      else s.sendOut c.cluster none l pa w.data w.mask w.poison
    | none => s

/-- Pages probed for the accesses of an engine or a bank core (R302, R308, R327, R332), each with the first byte accessed in it: the
leaves, or the first page that fails; `none` is a wait for its migration (R35). `bad` says what a leaf may not be. -/
def State.probePages (s : State) (p asid : Nat) (acc : Acc) (bad : Leaf → Option (Nat × Nat)) :
    List (Nat × Nat) → Except (Option Failed) (List (Nat × Leaf))
  | [] => .ok []
  | (pg, a) :: r =>
    match s.agentLeaf sysAgent p asid a acc with
    | .error .wait => .error none
    | .error (.fault c k e) => .error (some (Failed.at_ a c k e))
    | .ok l => match bad l with
      | some (c, k) => .error (some (c, k, a))
      | none => (s.probePages p asid acc bad r).map fun rest => (pg, l) :: rest

/-- A and DT set for the pages of an accepted command (R21). -/
def State.usePages (s : State) (p asid : Nat) (acc : Acc) (pages : List (Nat × Leaf)) : State :=
  pages.foldl (fun s q => s.useLeaf sysAgent p asid (65536 * q.1) acc q.2) s

/-- The HBM channel that a line of a VA is charged to (R349), by the leaves that a command captured; none for other memory. -/
def chanOf (pages : List (Nat × Leaf)) (va : Nat) : Option Nat :=
  (leafAt pages va).bind fun l =>
    if region (l.pa va) == .fast && !l.d then some (sliceOf (l.pa va / 128)) else none

/-- Every write that a cluster's origin has sent is applied at its home (R109, R124). -/
def State.engDrain (s : State) (o : Nat) : State := s.drain (s.clock (originOf o))

/-- A write of a copy goes to a remote module (R131). -/
def EngCmd.remote (c : EngCmd) (w : EngWrite) : Bool :=
  !w.tile && (leafAt c.pages w.addr).any fun l => region (l.pa w.addr) == .remote

/-- Some writes of a command of a cluster made, and applied at their homes (R124), those to a remote module acknowledged (R131). -/
def State.engWrites (s : State) (c : EngCmd) (ws : List EngWrite) : State :=
  let s := (ws.foldl (fun (s : State) w => s.engApply c w) s).engDrain c.cluster
  if ws.any c.remote then s.ackFlits c.cluster else s

/-- The line or block of a write of a copy: its writes are dropped by whole lines (R347). -/
def EngWrite.lineKey (w : EngWrite) : Nat := (if w.tile then 2 ^ 57 else 0) + w.addr / 128

/-! ### Rally (R313-R316) -/

/-- One pair of a sort: key word, payload, origin. -/
structure SortPair where
  key : Nat
  pay : Nat
  org : Nat
  deriving DecidableEq, Repr

/-- Key types by code (R313). -/
def keyTy : Nat → Ty
  | 0 => .i32 | 1 => .n32 | 2 => .f32 | 3 => .bf16 | 4 => .f16 | 5 => .i16 | _ => .n16

/-- log2 of the side of the square. -/
def hdrLog (h : Word) : Nat := bits h 0 3
/-- PHASE (R313). -/
def hdrPhase (h : Word) : Nat := bits h 16 4
/-- STEP (R313). -/
def hdrStep (h : Word) : Nat := bits h 20 6
/-- ST (R313). -/
def hdrSt (h : Word) : Nat := bits h 12 2

/-- RHDR breaks no rule of R313. -/
def hdrOk (h : Word) : Bool :=
  let lg := hdrLog h
  bits h 26 38 == 0 && bits h 14 2 == 0 && bits h 10 2 == 0 && !h.getLsbD 7 && !h.getLsbD 3
    && bits h 4 3 != 7 && hdrSt h != 3 && 3 ≤ lg && lg ≤ 6
    && (hdrSt h != 1 || (hdrPhase h ≤ 2 * lg + 1 && hdrStep h < 2 ^ lg))

/-- RHDR of a tile. -/
def State.rallyHdr (s : State) (o t : Nat) : Word := BitVec.ofNat 64 (s.tileGet o t 0 8).1

/-- Pair `a` precedes pair `b` (R314). -/
def precedes (h : Word) (a b : SortPair) : Bool :=
  let ty := keyTy (bits h 4 3)
  let x := keyMap ty a.key
  let y := keyMap ty b.key
  (if h.getLsbD 9 then y < x else x < y) || (x == y && h.getLsbD 8 && a.org < b.org)

/-- The square as rows of pairs. -/
def State.rallyLoad (s : State) (o t n : Nat) : List SortPair :=
  (List.range (n * n)).map fun p =>
    { key := (s.tileGet o t (128 + 8 * p) 4).1, pay := (s.tileGet o t (132 + 8 * p) 4).1,
      org := (s.tileGet o t (32896 + 2 * p) 2).1 }

/-- One pair written back to the tile (R316). -/
def State.rallyPut (s : State) (o t p : Nat) (x : SortPair) : State :=
  let put (s : State) (off n v : Nat) : State :=
    s.tilePut o t off (linePut 0 (off % 128) n v) (byteSpan (off % 128) n) false
  put (put s (128 + 8 * p) 8 (x.key + 2 ^ 32 * x.pay)) (32896 + 2 * p) 2 x.org

/-- The square written back with its header (R316, R317). -/
def State.rallyStore (s : State) (o t : Nat) (h : Word) (ps : List SortPair) : State :=
  let s := (ps.zipIdx).foldl (fun s (x, p) => s.rallyPut o t p x) s
  s.tilePut o t 0 (linePut 0 0 8 h.toNat) (byteSpan 0 8) false

/-- The partner of position `i` of a line of `n` in step `s`, when it has one (R315). -/
def partner (n s i : Nat) : Option Nat :=
  if i % 2 = s % 2 then (if i + 1 < n then some (i + 1) else none)
  else if i = 0 then none else some (i - 1)

/-- Position `i` of a line after a compare-exchange step in increasing direction (R314, R315). -/
def exchanged (h : Word) (line : Nat → SortPair) (n s i : Nat) : SortPair :=
  match partner n s i with
  | none => line i
  | some j =>
    let (x, y) := (line (min i j), line (max i j))
    let swap := precedes h y x
    if i < j then (if swap then y else x) else (if swap then x else y)

/-- One step of the sort (R315). -/
def rallyStep (h : Word) (ps : List SortPair) : List SortPair :=
  let lg := hdrLog h
  let n := 2 ^ lg
  let d : SortPair := { key := 0, pay := 0, org := 0 }
  let ph := hdrPhase h
  let st := hdrStep h
  (List.range (n * n)).map fun p =>
    let r := p / n
    let c := p % n
    if ph = 2 * lg + 1 then
      ps.getD (n * r + (if r % 2 = 1 then n - 1 - c else c)) d
    else if ph % 2 = 1 then exchanged h (fun i => ps.getD (n * i + c) d) n st r
    else
      let pos (i : Nat) : Nat := if r % 2 = 1 then n - 1 - i else i
      exchanged h (fun i => ps.getD (n * r + pos i) d) n st (pos c)

/-- The header after one more step (R313, R315): the next step, the next phase, or done. -/
def hdrNext (h : Word) : Word :=
  let lg := hdrLog h
  let ph := hdrPhase h
  if ph = 2 * lg + 1 then setBits (setBits h 12 2 2) 20 6 0
  else if hdrStep h + 1 < 2 ^ lg then setBits h 20 6 (hdrStep h + 1)
  else setBits (setBits h 20 6 0) 16 4 (ph + 1)

/-- Up to `k` steps of a sort, stopping when it is done. -/
def rallySteps : Nat → Word → List SortPair → Word × List SortPair
  | 0, h, ps => (h, ps)
  | k + 1, h, ps => if hdrSt h = 2 then (h, ps) else rallySteps k (hdrNext h) (rallyStep h ps)

/-- A new sort's first state: origins and ST = 01 (R316). -/
def rallyBegin (h : Word) (ps : List SortPair) : Word × List SortPair :=
  if hdrSt h = 0 then
    (setBits (setBits (setBits h 12 2 1) 16 4 0) 20 6 0, ps.zipIdx.map fun (x, p) => { x with org := p })
  else (h, ps)

/-- The first poisoned block among header, pairs and origins of a sort's tile (R317), as a byte offset. -/
def State.rallyPoison (s : State) (o t n : Nat) : Option Nat :=
  ((List.range 512).filter fun b => (128 * b < 128 + 8 * n * n || (32896 ≤ 128 * b + 127 && 128 * b < 32896 + 2 * n * n))
      && s.tmem.poisoned ((o * 128 + t) * 512 + b)).head?.map (128 * ·)

/-- Up to `k` steps of the sort of command `c`, from its tile to its tile (R316). -/
def State.rallyRun (s : State) (c : EngCmd) (k : Nat) : State :=
  let t := c.tiles.getD 0 0
  let h := s.rallyHdr c.cluster t
  let n := 2 ^ hdrLog h
  let (h, ps) := rallyBegin h (s.rallyLoad c.cluster t n)
  let (h, ps) := rallySteps k h ps
  s.rallyStore c.cluster t h ps

/-- The steps that a sort takes at most (R315). -/
def rallyLimit : Nat := 1024

/-! ### Commands -/

/-- A command's tiles return (R51, R308), as their node's context holds them; those of an engine node stay until the node
retires. -/
def State.flipBack (s : State) (c : EngCmd) : State :=
  if c.node then s else
  c.tiles.foldl (fun s n =>
    let t := s.tile c.cluster n
    if tileKind t.owner = 2 ∧ tileNode t.owner = c.slot then
      s.setTile { t with owner := ownerField 1 0 (tilePart t.owner) 0 c.slot }
    else s) s

/-- A command in flight by its number. -/
def State.cmd (s : State) (id : Nat) : Option EngCmd := s.cmds.find? fun c => c.id == id

/-- A command leaves the engine. -/
def State.dropCmd (s : State) (id : Nat) : State := { s with cmds := s.cmds.filter fun c => c.id != id }

/-- A command changed. -/
def State.mapCmd (s : State) (id : Nat) (f : EngCmd → EngCmd) : State :=
  { s with cmds := s.cmds.map fun c => if c.id == id then f c else c }

/-- A cause recorded in the image of a parked context, whose PCAUSE holds none (R330, R361); `none` where it cannot be (log 13). -/
def State.imagePost (s : State) (c : Ctx) (p : Posted) : Option State :=
  let va := (c.cr 17).toNat
  if c.status != .parked || s.imageOwed c.slot then none
  else match s.imageLine c.part c.asid va 0, s.imageLeaf c.part c.asid va .write with
    | some (d, bad), some l =>
      if bad || l.m || d.getLsbD 383 then none
      else
        let s := s.useLeaf c.cluster c.part c.asid va .write l
        let x : LineVal := linePut 0 0x28 16 (2 ^ 63 + p.code + 2 ^ 64 * p.tval.toNat)
        some (s.homeApply (l.pa va / 128) l.key false x (byteSpan 0x28 16) false)
    | _, _ => none

/-- A cause posted to a context (R308, R330): to a parked one, in its image. -/
def State.post (s : State) (slot : Nat) (p : Posted) : State :=
  match (s.ctxOf slot).bind fun c => s.imagePost c p with
  | some t => t.mapCtx slot fun c => { c with posted := { p with kept := true } :: c.posted.filter fun q => !q.kept }
  | none => s.mapCtx slot fun c => { c with posted := c.posted ++ [p] }

/-- A sort stops on poison (R317): its cause is posted, or reported to its node by the caller. -/
def rallyTval (t off : Nat) : Word := BitVec.ofNat 64 (windowBase + 65536 * t + off)

/-- A context's command leaves its engine: its tiles return, and the cause of its stop is posted (R308). -/
def State.leaveEngine (s : State) (c : EngCmd) (fail : Option CauseVal) : State :=
  let s := (s.dropCmd c.id).flipBack c
  match fail with
  | none => s
  | some v => s.post c.slot { code := v.code, tval := v.tval, tiles := c.tiles, unit := 4 }

/-- The flips back that waited for the resume of a context (R364). -/
def State.flipEnded (s : State) (slot : Nat) : State :=
  (s.cmds.filter fun c => c.slot == slot && c.ended).foldl (fun (s : State) c => s.leaveEngine c c.fail) s

/-! ### The next slot of a shared resource (R344) -/

/-- Where a resource's virtual time stands. -/
def resIndex : Resource → Nat
  | .cachePort => 0 | .matrixQueue => 1 | .rally => 2 | .copyChannel => 3 | .tileFetch => 4

/-- A request comes before another, each a context and its arrival: the smaller virtual time among weighted contexts, then the
earlier arrival, then the lower hart. -/
def reqBefore (k : Nat) (a b : Ctx × Nat) : Bool :=
  let (x, y) := if a.1.wgt = 0 then (0, 0) else (a.1.vtime.getD k 0, b.1.vtime.getD k 0)
  x < y || (x == y && (a.2 < b.2 || (a.2 == b.2 && a.1.hart < b.1.hart)))

/-- The slot of the context that resource `k` serves next among requests, each a slot and its arrival (R344): a context of
weight 0 only where no weighted one waits. -/
def State.winner (s : State) (k : Nat) (reqs : List (Nat × Nat)) : Option Nat :=
  let known := reqs.filterMap fun r => (s.ctxOf r.1).map fun c => (c, r.2)
  let heavy := known.filter fun r => r.1.wgt != 0
  ((if heavy.isEmpty then known else heavy).foldl (fun (best : Option (Ctx × Nat)) r => match best with
    | none => some r
    | some b => if reqBefore k r b then some r else some b) none).map fun r => r.1.slot

/-- A grant's price (R344). -/
def Ctx.pay (c : Ctx) (k : Nat) : Ctx :=
  if c.wgt = 0 then c else { c with vtime := c.vtime.setIfInBounds k (c.vtime.getD k 0 + ceilDiv 256 c.wgt) }

/-- The command that resource `k` serves next among some that wait: a node's command has no virtual time, and whether the oldest
of them goes before the contexts' is free (log 22). -/
def State.pickCmd (s : State) (k : Nat) (cs : List EngCmd) : Option EngCmd :=
  let first := cs.find? fun c => c.node
  match s.winner k ((cs.filter fun c => !c.node).map fun c => (c.slot, c.id)) with
  | none => first
  | some slot => if first.isSome && Config.choice s.nd (20 + k) then first else cs.find? fun c => c.slot == slot && !c.node

/-- A command is given its slot of resource `k`. -/
def State.payCmd (s : State) (k : Nat) (c : EngCmd) : State := if c.node then s else s.mapCtx c.slot fun x => x.pay k

end Sys2Proof.Machine
end

