-- ==== Sys2Proof/Machine/Postfix.lean ====
section
/-! DEFINITION. The postfix language of bank commands and combiners (17 R320-R323) and the element formats of R82. -/

namespace Sys2Proof.Machine

/-- The element formats by code (R82). -/
def efTy : Nat → Option Ty
  | 0 => some .i32 | 1 => some .n32 | 2 => some .f32 | 3 => some .bf16 | 4 => some .f16 | 5 => some .i16
  | 6 => some .n16 | 7 => some .i8 | 8 => some .n8 | _ => none

/-- A cell: a float (an FP32 pattern) or an integer at the width of the expression's integer type (R320). -/
structure Cell where
  fl  : Bool
  val : Nat
  deriving DecidableEq, Repr

/-- The integer type of an expression (R320). -/
def intTy (ef : Ty) : Ty := if ef.isFp then .i32 else ef

/-- An element brought in as a cell (R320). -/
def cellOf (ef : Ty) (x : Nat) : Cell :=
  if ef = .f32 then ⟨true, low x 32⟩
  else if ef.isFp then ⟨true, (roundVal fmtF32 .rne (decodeFp (fmtOf ef) x)).1⟩
  else ⟨false, low x ef.bits⟩

/-- A constant brought in as a cell: the FP32 bits, or the low bits of the word (R321). -/
def constCell (ef : Ty) (k : BitVec 32) : Cell := if ef.isFp then ⟨true, k.toNat⟩ else ⟨false, low k.toNat ef.bits⟩

/-- The final cell stored as EF (R320). -/
def storeCell (ef : Ty) (c : Cell) : Nat :=
  if c.fl then (roundVal (fmtOf ef) .rne (decodeFp fmtF32 c.val)).1 else low c.val ef.bits

/-- (x + y) / 2 rounded once. -/
def avgFp (a b : Nat) : Nat :=
  match decodeFp fmtF32 a, decodeFp fmtF32 b with
  | .fin n1 m1 e1, .fin n2 m2 e2 =>
    let (z, e) := addExact n1 m1 e1 n2 m2 e2
    (roundInt fmtF32 .rne (zeroSign .rne n1 n2) z (e - 1)).1
  | x, y => (addFp fmtF32 .rne x y).1

/-- A float operator of two cells, x beneath y (R321). -/
def floatOp2 (op : Nat) (x y : Nat) : Cell :=
  let a := decodeFp fmtF32 x
  let b := decodeFp fmtF32 y
  match op with
  | 0x10 => ⟨true, (addFp fmtF32 .rne a b).1⟩
  | 0x11 => ⟨true, (addFp fmtF32 .rne a b.neg).1⟩
  | 0x12 => ⟨true, (mulFp fmtF32 .rne a b).1⟩
  | 0x15 => ⟨true, minMaxFp fmtF32 false x y⟩
  | 0x16 => ⟨true, minMaxFp fmtF32 true x y⟩
  | 0x1B => ⟨true, (divFp fmtF32 .rne a b).1⟩
  | 0x1C => ⟨true, avgFp x y⟩
  | 0x28 => ⟨false, if ltFp a b then 1 else 0⟩
  | _ => ⟨false, if eqFp a b then 1 else 0⟩

/-- A value that leaves the type's range traps (R321). -/
def trapping (t : Ty) (z : Int) : Option Cell :=
  if z < tyLo t ∨ tyHi t < z then none else some ⟨false, ofSigned t.bits z⟩

/-- An integer operator of two cells, x beneath y; `none` is a trap (R321). -/
def intOp2 (t : Ty) (op : Nat) (x y : Nat) : Option Cell :=
  let a := intVal t x
  let b := intVal t y
  let w := t.bits
  let wrap (z : Int) : Option Cell := some ⟨false, ofSigned w z⟩
  match op with
  | 0x10 => wrap (a + b)
  | 0x11 => wrap (a - b)
  | 0x12 => wrap (a * b)
  | 0x15 => wrap (if b < a then b else a)
  | 0x16 => wrap (if a < b then b else a)
  | 0x17 => trapping t (a + b)
  | 0x18 => trapping t (a - b)
  | 0x19 => trapping t (a * b)
  | 0x1C => wrap ((a + b) / 2)
  | 0x20 => some ⟨false, x &&& y⟩
  | 0x21 => some ⟨false, x ||| y⟩
  | 0x22 => some ⟨false, x ^^^ y⟩
  | 0x23 => some ⟨false, low (x * 2 ^ (y % w)) w⟩
  | 0x24 => wrap (a / (2 ^ (y % w) : Nat))
  | 0x28 => some ⟨false, if a < b then 1 else 0⟩
  | _ => some ⟨false, if a = b then 1 else 0⟩

/-- One operator on a stack whose top is first (R321). `none` is a trap; a stack it does not fit stays as it is. -/
def postfixOp (ef : Ty) (a b c : Nat) (ks : List (BitVec 32)) (op : Nat) (st : List Cell) : Option (List Cell) :=
  let t := intTy ef
  match op, st with
  | 0x01, r => some (cellOf ef a :: r)
  | 0x02, r => some (cellOf ef b :: r)
  | 0x03, r => some (cellOf ef c :: r)
  | 0x04, r => some (constCell ef (ks.getD 0 0) :: r)
  | 0x05, r => some (constCell ef (ks.getD 1 0) :: r)
  | 0x06, r => some (constCell ef (ks.getD 2 0) :: r)
  | 0x07, r => some (constCell ef (ks.getD 3 0) :: r)
  | 0x08, y :: r => some (y :: y :: r)
  | 0x09, y :: x :: r => some (x :: y :: r)
  | 0x13, y :: r => some ((if y.fl then ⟨true, y.val ^^^ 2 ^ 31⟩ else ⟨false, ofSigned t.bits (-(intVal t y.val))⟩) :: r)
  | 0x14, y :: r => some ((if y.fl then ⟨true, low y.val 31⟩ else ⟨false, ofSigned t.bits (intVal t y.val).natAbs⟩) :: r)
  | 0x1A, y :: x :: z :: r =>
    some (⟨true, (fmaFp fmtF32 .rne (decodeFp fmtF32 z.val) (decodeFp fmtF32 x.val) (decodeFp fmtF32 y.val)).1⟩ :: r)
  | 0x2A, y2 :: y :: x :: r => some ((if y2.val != 0 then x else y) :: r)
  | 0x30, y :: r =>
    let z := intVal t y.val
    some (⟨true, (roundInt fmtF32 .rne false z 0).1⟩ :: r)
  | 0x31, y :: r => some (⟨false, (cvtToInt .rne t.bits (tyLo t) (tyHi t) (decodeFp fmtF32 y.val)).1⟩ :: r)
  | op, y :: x :: r =>
    if y.fl then some (floatOp2 op x.val y.val :: r)
    else (intOp2 t op x.val y.val).map (· :: r)
  | _, r => some r

/-- An expression run once (R320); `none` where an operator traps (R323). -/
def evalPostfix (ef : Ty) (expr : List Byte) (ks : List (BitVec 32)) (a b c : Nat) : Option Nat :=
  let go := expr.foldl (fun (acc : Option (List Cell)) op => match acc with
    | none => none
    | some st => postfixOp ef a b c ks op.toNat st) (some [])
  match go with
  | some (x :: _) => some (storeCell ef x)
  | some [] => some 0
  | none => none

/-- The classes of the stack after an operator, top first, true for float (R321, R322); `none` where the operator is
unassigned or finds too few cells or the wrong classes. -/
def postfixClass (f : Bool) (op : Nat) (st : List Bool) : Option (List Bool) :=
  match op, st with
  | 0x08, y :: r => some (y :: y :: r)
  | 0x09, y :: x :: r => some (x :: y :: r)
  | 0x13, y :: r => some (y :: r)
  | 0x14, y :: r => some (y :: r)
  | 0x1A, true :: true :: true :: r => some (true :: r)
  | 0x1B, true :: true :: r => some (true :: r)
  | 0x2A, false :: y :: x :: r => if x == y then some (x :: r) else none
  | 0x30, false :: r => some (true :: r)
  | 0x31, true :: r => some (false :: r)
  | op, r =>
    if 1 ≤ op ∧ op ≤ 7 then some (f :: r)
    else match r with
      | y :: x :: r =>
        if op = 0x28 ∨ op = 0x29 then if x == y then some (false :: r) else none
        else if op = 0x10 ∨ op = 0x11 ∨ op = 0x12 ∨ op = 0x15 ∨ op = 0x16 ∨ op = 0x1C then
          if x == y then some (x :: r) else none
        else if (0x17 ≤ op ∧ op ≤ 0x19) ∨ (0x20 ≤ op ∧ op ≤ 0x24) then
          if !x && !y then some (false :: r) else none
        else none
      | _ => none

/-- An expression is well formed (R322). -/
def postfixOk (ef : Ty) (expr : List Byte) : Bool :=
  let go := expr.foldl (fun (acc : Option (List Bool)) op => match acc with
    | none => none
    | some st => match postfixClass ef.isFp op.toNat st with
      | some r => if r.length ≤ 4 then some r else none
      | none => none) (some [])
  1 ≤ expr.length && expr.length ≤ 24 && go == some [ef.isFp]

end Sys2Proof.Machine
end

