-- ==== Sys2Proof/Machine/BankOps.lean ====
section
/-! DEFINITION. The bank cores (17 R319-R333): maps, dots, reduces, gathers and scatter-adds on DRAM below the L2 (05
R125, R127). -/

namespace Sys2Proof.Machine

/-- An element in DRAM through a captured leaf, and its line's poison (R127, R319). -/
def State.bankGet (s : State) (c : BankCmd) (va w : Nat) : Nat × Bool :=
  match leafAt c.pages va with
  | none => (0, false)
  | some l =>
    if l.d then (0, false) else
    let pa := l.pa va
    let (d, p) := s.dramRead (pa / 128) l.key
    (lineGet d (pa % 128) (w / 8), p)

/-- What a bank core writes in one DRAM line. -/
structure BankWrite where
  line : Nat
  key  : Nat
  data : LineVal
  mask : ByteMask
  deriving DecidableEq, Repr

/-- An element (VA, bits and value) added to what a command writes: the elements in one line are one write of it (R75, R127). -/
def BankCmd.addWrite (c : BankCmd) (ws : List BankWrite) (e : Nat × Nat × Nat) : List BankWrite :=
  match leafAt c.pages e.1 with
  | none => ws
  | some l =>
    let pa := l.pa e.1
    let n := e.2.1 / 8
    if ws.any fun w => w.line == pa / 128 then
      ws.map fun w => if w.line == pa / 128 then
        { w with data := linePut w.data (pa % 128) n e.2.2, mask := w.mask ||| byteSpan (pa % 128) n } else w
    else ws ++ [{ line := pa / 128, key := l.key, data := linePut 0 (pa % 128) n e.2.2, mask := byteSpan (pa % 128) n }]

/-- Elements written in DRAM through captured leaves, line by line (R127, R319). -/
def State.bankPuts (s : State) (c : BankCmd) (es : List (Nat × Nat × Nat)) : State :=
  (es.foldl c.addWrite []).foldl (fun s w => (s.dramWrite w.line w.key w.data w.mask false).noteWrite w.line none) s

/-- An element written in DRAM. -/
def State.bankPut (s : State) (c : BankCmd) (va w x : Nat) : State := s.bankPuts c [(va, w, x)]

/-- EF of a command. -/
def BankCmd.ty (c : BankCmd) : Ty := (efTy c.ef).getD .i32

/-- The width of an element in bytes. -/
def BankCmd.wb (c : BankCmd) : Nat := c.ty.bits / 8

/-- The bytes that a stream of a command spans; the output of a dot has 4 bytes for each block (R327, R329). -/
def bankSpan (kind n w : Nat) (isD : Bool) : Nat :=
  if kind = 0 ∨ !isD then n * (w / 8) else if kind = 1 then 4 * ceilDiv n 32 else 4

/-- The streams that a command reads: BA always, BB and BC where they are given (R325). -/
def BankCmd.reads (c : BankCmd) : List (Int × Nat) :=
  (c.a :: [c.b, c.c].filter (· != 0)).map fun (q : Nat) => ((q : Int), bankSpan c.kind c.n c.ty.bits false)

/-- The stream that it writes. -/
def BankCmd.writes (c : BankCmd) : List (Int × Nat) := [((c.d : Int), bankSpan c.kind c.n c.ty.bits true)]

/-- The lines of runs of VAs, each once in a run. -/
def lineVas (rs : List (Int × Nat)) : List Nat :=
  rs.flatMap fun r => (List.range ((r.1.toNat + r.2 + 127) / 128 - r.1.toNat / 128)).map fun k => 128 * (r.1.toNat / 128 + k)

/-- The lines that a command reads in DRAM, as VAs: a scatter-add those of its next update. -/
def BankCmd.readVas (c : BankCmd) : List Nat :=
  if c.kind ≤ 2 then lineVas c.reads else if c.kind = 3 then c.entries.map (·.1) else (c.entries.take 1).map (·.1)

/-- The lines that it writes: a command writes BDONE too. -/
def BankCmd.writeVas (c : BankCmd) : List Nat :=
  if c.kind ≤ 2 then lineVas c.writes ++ [c.recVa.toNat] else if c.kind = 3 then [] else (c.entries.take 1).map (·.1)

/-- The accesses of a command, a scatter-add's for its next update: the lines that it reads, then those that it writes, each of them
charged once (R319, R349). -/
def BankCmd.load (c : BankCmd) : List (Bool × Nat) := c.readVas.map (false, ·) ++ c.writeVas.map (true, ·)

/-- The units of a command: elements of a map, or blocks of 32 of a dot or reduce, by their first element (R328, R329). -/
def BankCmd.units (c : BankCmd) : List Nat :=
  if c.kind = 0 then List.range c.n else (List.range (ceilDiv c.n 32)).map (32 * ·)

/-- The lines that the core of unit `i` reads for it, as VAs; of a gather those of entry `i`. -/
def BankCmd.unitReads (c : BankCmd) (i : Nat) : List Nat :=
  if 2 < c.kind then ((c.entries.drop i).take 1).map (·.1)
  else
    let n := if c.kind = 0 then 1 else min 32 (c.n - i)
    lineVas ((c.a :: [c.b, c.c].filter (· != 0)).map fun (q : Nat) => (((q + i * c.wb : Nat) : Int), n * c.wb))

/-- The line that unit `i` writes in D, as a VA; a reduce writes none for a unit. -/
def BankCmd.unitWrites (c : BankCmd) (i : Nat) : List Nat :=
  match c.kind with
  | 0 => [(c.d + i * c.wb) / 128 * 128]
  | 1 => [(c.d + i / 8) / 128 * 128]
  | _ => []

/-- The core of a block, or of a gather's entry, has sent its message, which waits in a mailbox or has been taken (R329, R333): its
lines have been consumed. -/
def State.sent (s : State) (c : BankCmd) (block : Nat) : Bool :=
  c.seen.contains block || s.boxes.any fun m => m.cmd == c.id && m.block == block

/-- The unit of a dot, reduce or gather whose message has been sent; a map sends none. -/
def State.unitSent (s : State) (c : BankCmd) (i : Nat) : Bool :=
  c.kind != 0 && s.sent c (if c.kind = 3 then i else i / 32)

/-- The lines that a command has still to read for some units, each once: none that it read for a message. -/
def State.unread (s : State) (c : BankCmd) (units : List Nat) : List Nat :=
  let all := if c.kind = 3 then List.range c.entries.length else c.units
  let old := (all.filter (s.unitSent c)).flatMap c.unitReads
  (((units.filter fun i => !s.unitSent c i).flatMap c.unitReads).filter fun va => !old.contains va).eraseDups

/-- The bank cores' reads of lines meet the errors of the lines (R73, R74). -/
def State.bankMeet (s : State) (c : BankCmd) (vas : List Nat) : State :=
  if s.latent.isEmpty then s else
    vas.foldl (fun s va => match leafAt c.pages va with
      | some l => if l.d then s else s.meet (l.pa va / 128)
      | none => s) s

/-- What element `i` of a map comes to: poison, a trap, or its value (R328, R330). -/
def State.mapElem (s : State) (c : BankCmd) (i : Nat) : Except Nat Nat :=
  let w := c.ty.bits
  let get (b : Nat) : Nat × Bool := if b = 0 then (0, false) else s.bankGet c (b + i * c.wb) w
  let (a, p) := s.bankGet c (c.a + i * c.wb) w
  let (b, q) := get c.b
  let (d, r) := get c.c
  if p || q || r then .error 0x0E8
  else match evalPostfix c.ty c.expr c.consts a b d with
    | none => .error 0x128
    | some x => .ok x

/-- Block `j` of a dot or reduce (R329): poison, or its sum. -/
def State.blockOf (s : State) (c : BankCmd) (j : Nat) : Except Nat Nat :=
  let w := c.ty.bits
  let idx := (List.range 32).filterMap fun k => if 32 * j + k < c.n then some (32 * j + k) else none
  let vals := idx.map fun i => (s.bankGet c (c.a + i * c.wb) w, s.bankGet c (c.b + i * c.wb) w)
  if vals.any fun (x, y) => x.2 || y.2 then .error 0x0E8
  else if c.ty = .i8 then
    .ok (ofSigned 32 ((vals.map fun (x, y) => toSigned 8 x.1 * toSigned 8 y.1).foldl (· + ·) 0))
  else
    let ps := vals.map fun (x, y) => mulExact (decodeFp (fmtOf c.ty) x.1) (decodeFp (fmtOf c.ty) y.1)
    let zeros := (List.range (32 - idx.length)).map fun _ => some (FVal.fin false 0 0)
    .ok (blockSum (ps ++ zeros))

/-- The sum of block `j` as its core has sent it, or as it stands (R329, R333). -/
def State.partialOf (s : State) (c : BankCmd) (j : Nat) : Except Nat Nat :=
  match s.boxes.find? fun m => m.cmd == c.id && m.block == j with
  | some m => .ok (low m.data.toNat 32)
  | none => s.blockOf c j

/-- A partial folded into a reduce's accumulator (R329). -/
def foldPartial (ty : Ty) (acc : Option (BitVec 32)) (p : Nat) : BitVec 32 :=
  match acc with
  | none => BitVec.ofNat 32 p
  | some a => BitVec.ofNat 32 (if ty = .i8 then (satAdd32 a.toNat (toSigned 32 p)).1 else addF32 a.toNat p)

/-- BDONE written at its home (R326). -/
def State.bankDone (s : State) (c : BankCmd) (stop : Bool) (cause cnt : Nat) : State :=
  let x := 2 ^ 63 + (if stop then 2 ^ 62 else 0) + cause * 2 ^ 48 + cnt % 2 ^ 40
  s.bankPut c (c.recVa.toNat + 0x58) 64 x

/-- A bank command by its number. -/
def State.bankCmd (s : State) (id : Nat) : Option BankCmd := s.bank.find? fun c => c.id == id

/-- The wake register of a bank core (R333). -/
def State.wakeOf (s : State) (core : Nat) : BitVec 8 := ((s.wake.find? fun w => w.1 == core).map (·.2)).getD 0

/-- The wake register of a bank core written. -/
def State.setWake (s : State) (core : Nat) (x : BitVec 8) : State :=
  { s with wake := (if x = 0 then [] else [(core, x)]) ++ s.wake.filter fun w => w.1 != core }

/-- A message is written into the lowest free mailbox of a core, and wakes it (R333); with no free one the sender waits. -/
def State.sendBox (s : State) (core src cmd block : Nat) (data : BitVec 512) : State :=
  match (List.range 8).find? fun k => !(s.wakeOf core).getLsbD k with
  | none => s
  | some k =>
    { s.setWake core (s.wakeOf core ||| (1#8 <<< k)) with
      boxes := s.boxes ++ [{ core := core, box := k, src := src, cmd := cmd, block := block, data := data }] }

/-- A message is taken out of its mailbox. -/
def State.takeBox (s : State) (m : MailBox) : State :=
  { s.setWake m.core (s.wakeOf m.core &&& ~~~(1#8 <<< m.box)) with boxes := s.boxes.filter (· != m) }

/-- A bank command leaves its cores, with its messages. -/
def State.dropBank (s : State) (id : Nat) : State :=
  let s := (s.boxes.filter fun m => m.cmd == id).foldl State.takeBox s
  { s with bank := s.bank.filter fun c => c.id != id, mail := s.mail.filter fun m => m.1 != id }

/-- A bank command changed. -/
def State.mapBank (s : State) (id : Nat) (f : BankCmd → BankCmd) : State :=
  { s with bank := s.bank.map fun c => if c.id == id then f c else c }

/-- The channel whose core takes the unit of element `i` (R328). -/
def BankCmd.channel (c : BankCmd) (i : Nat) : Nat :=
  (chanOf c.pages (c.a + i * c.wb)).getD 0

/-- The elements of a map by the line of D that holds them, in increasing order (R328). -/
def BankCmd.groups (c : BankCmd) (es : List Nat) : List (List Nat) :=
  let line (i : Nat) : Nat := (c.d + i * c.wb) / 128
  ((es.map line).eraseDups).map fun l => es.filter fun i => line i == l

/-- The elements of a map in one line of D (R328): each reads what the one before it wrote, and together they are one write of the
line (R75, R127). A trap or poison stops the core: the element and its cause. -/
def State.mapGroup (s : State) (c : BankCmd) (es : List Nat) : State × Option (Nat × Nat) :=
  let (_, ws, bad) := es.foldl (fun (acc : State × List (Nat × Nat × Nat) × Option (Nat × Nat)) i =>
    match acc.2.2, acc.1.mapElem c i with
    | some _, _ => acc
    | none, .error e => (acc.1, acc.2.1, some (i, e))
    | none, .ok x => (acc.1.bankPut c (c.d + i * c.wb) c.ty.bits x, acc.2.1 ++ [(c.d + i * c.wb, c.ty.bits, x)], none)) (s, [], none)
  (s.bankPuts c ws, bad)

/-- The elements of a map that `keep` allows, each core's in increasing order up to its first stop; and those stops (R328, R330). -/
def State.mapRun (s : State) (c : BankCmd) (keep : Nat → Bool) : State × List (Nat × Nat) :=
  (c.groups (c.units.filter keep)).foldl (fun (acc : State × List (Nat × Nat)) es =>
    if acc.2.any fun x => c.channel x.1 == c.channel (es.headD 0) then acc
    else
      let (s, bad) := acc.1.mapGroup c es
      (s, acc.2 ++ bad.toList)) (s, [])

/-- The units that stop a command, the first of each core, with their causes (R328, R330): a block whose message has been sent stops
nothing any more. -/
def State.firstBads (s : State) (c : BankCmd) : List (Nat × Nat) :=
  if c.kind = 0 then (s.mapRun c fun _ => true).2
  else ((c.units.filter fun i => !s.unitSent c i).filterMap fun i => match s.blockOf c (i / 32) with
      | .error e => some (i, e)
      | .ok _ => none).foldl (fun (acc : List (Nat × Nat)) x =>
    if acc.any fun y => c.channel y.1 == c.channel x.1 then acc else acc ++ [x]) []

/-- The unit that stops the command, and its cause: which core meets its own first is free (R330). -/
def State.firstBad (s : State) (c : BankCmd) : Option (Nat × Nat) :=
  let bad := s.firstBads c
  if bad = [] then none else bad[Config.pick s.nd 3 % bad.length]?

/-- The writes of a map or dot applied for the elements that `keep` allows. -/
def State.bankWrites (s : State) (c : BankCmd) (keep : Nat → Bool) : State :=
  if c.kind = 0 then (s.mapRun c keep).1
  else s.bankPuts c ((c.units.filter keep).filterMap fun i =>
    if c.seen.contains (i / 32) then none
    else match s.partialOf c (i / 32) with
      | .ok x => some (c.d + i / 8, 32, x)
      | .error _ => none)

/-- The partials among `l` that may arrive next: not one before which its sender has sent another of them (R333). -/
def State.mayArrive (s : State) (c : BankCmd) (l : List Nat) : List Nat :=
  l.filter fun j =>
    (s.boxes.takeWhile fun m => !(m.cmd == c.id && m.block == j)).all fun m =>
      m.cmd != c.id || m.src != c.channel (32 * j) || !l.contains m.block

/-- The partials of a reduce that have not arrived, in a free order that keeps the order of each sender's messages (R329, R333). -/
def State.arrival (s : State) (c : BankCmd) : Nat → List Nat → List Nat
  | 0, _ => []
  | fuel + 1, l =>
    let may := s.mayArrive c l
    if may = [] then []
    else
      let j := may.getD (Config.pick s.nd (100 + fuel) % may.length) 0
      j :: s.arrival c fuel (l.filter (· != j))

/-- The rest of a reduce: every partial that has not arrived arrives, and D is written (R329). -/
def State.reduceRest (s : State) (c : BankCmd) : State :=
  let nb := ceilDiv c.n 32
  let left := (List.range nb).filter fun j => !c.seen.contains j
  let acc := (s.arrival c nb left).foldl (fun (a : Option (BitVec 32)) j => match s.partialOf c j with
    | .ok x => some (foldPartial c.ty a x)
    | .error _ => a) c.acc
  s.bankPut c c.d 32 (acc.getD 0).toNat

/-- The unit of element `i` is completed when the unit at `bad` stops the command: its message has been sent, or its own core has reached
every unit before `bad`, and each other core has gone on freely far, up to its own first stop among the state's (R328, R330). -/
def State.unitDone (s : State) (c : BankCmd) (bad i : Nat) : Bool :=
  let ch := c.channel i
  s.unitSent c i ||
    (if ch = c.channel bad then i < bad
     else i < Config.pick s.nd (1000 + ch) % (c.n + 1) && (s.firstBads c).all fun x => c.channel x.1 != ch || i < x.1)

/-- What a stopped command leaves: CNT elements done, with what other cores completed above them (R326, R330). -/
def State.bankStop (s : State) (c : BankCmd) (ready : Nat → Bool) (cause : Nat) : Nat × State :=
  let done := (c.units.takeWhile ready).length
  let cnt := if c.kind = 2 then 0 else if c.kind = 1 then 32 * done else done
  let out := if c.kind = 2 then s else s.bankWrites c ready
  (cnt, out.bankDone c true cause cnt)

/-! ### The budget (R319, R350) -/

/-- The budgets of its channels grant a command those of its accesses that `need` picks, one by one while the credit lasts (R350); all
of them, where the answer is true. -/
def State.bankPay (s : State) (c : BankCmd) (need : Bool × Nat → Bool) : Bool × State :=
  if !c.owed.any need then (true, s)
  else
    let (left, s) := c.owed.foldl (fun (acc : List (Bool × Nat) × State) q =>
      match chanOf c.pages q.2 with
      | none => acc
      | some ch =>
        if need q && acc.2.mayWork ch .bank then (acc.1, acc.2.charge ch .bank 1) else (acc.1 ++ [q], acc.2)) ([], s)
    (!left.any need, s.mapBank c.id fun b => { b with owed := left })

/-- A command stops as the unit at `bad` does: the accesses of the units that are done, the reads of that unit, and BDONE (R330). -/
def BankCmd.stopNeeds (c : BankCmd) (done : List Nat) (bad : Nat) (q : Bool × Nat) : Bool :=
  if q.1 then q.2 == c.recVa.toNat || (done.flatMap c.unitWrites).contains q.2
  else ((done ++ [bad]).flatMap c.unitReads).contains q.2

/-- How far a `bcmd` has come: it waits for its budgets, it has ended, or it has stopped with a cause and CNT. -/
inductive BankEnd where
  | waits
  | ended
  | stopped (cause cnt : Nat)
  deriving DecidableEq, Repr

/-- A `bcmd` goes on (R328-R330): where the budgets have granted what it accesses until then, it runs to its end, or stops at the first
unit of a core that traps or meets poison, and BDONE is written. The lines of units that it does not reach are neither charged nor met. -/
def State.runBank (s : State) (c : BankCmd) : BankEnd × State :=
  let all := s.bankMeet c (s.unread c c.units)
  match all.firstBad c with
  | some (i, e) =>
    let ready := all.unitDone c i
    let done := c.units.filter ready
    let (go, t) := s.bankPay c (c.stopNeeds done i)
    if !go then (.waits, t)
    else
      let (cnt, t) := (t.bankMeet c (s.unread c (done ++ [i]))).bankStop c ready e
      (.stopped e cnt, t.dropBank c.id)
  | none =>
    let (go, t) := s.bankPay c fun _ => true
    if !go then (.waits, t)
    else
      let t := t.bankMeet c (s.unread c c.units)
      let t := if c.kind = 2 then t.reduceRest c else t.bankWrites c fun _ => true
      (.ended, (t.bankDone c false 0 c.n).dropBank c.id)

/-! ### Gathers and scatter-adds (R332) -/

/-- The element of entry `k` of a gather and its poison (R332): what its core has sent, or as it stands. -/
def State.gathered (s : State) (c : BankCmd) (k va : Nat) : Nat × Bool :=
  match c.got.find? fun g => g.1 == k with
  | some g => (g.2, false)
  | none => match s.boxes.find? fun m => m.cmd == c.id && m.block == k with
    | some m => (m.data.toNat, false)
    | none => s.bankGet c va c.ty.bits

/-- The value and the late fault of a gather whose data returns: entries are (VA, index), and `old` is the destination as
it starts. -/
def State.gatherValue (s : State) (c : BankCmd) (lanes : Nat) (old : BitVec 16384) : BitVec 16384 × Option CauseVal :=
  c.entries.zipIdx.foldl (fun (acc : BitVec 16384 × Option CauseVal) (e, k) =>
    let (x, p) := s.gathered c k e.1
    let late := match acc.2 with
      | some l => some l
      | none => if p then some { code := 0x0E8, tval := BitVec.ofNat 64 (e.1 / 128 * 128) } else none
    (elemSet lanes c.ty.bits acc.1 e.2 x, late)) (old, none)

/-- The pages of a gather whose data return without poison are used (R21, R76): A is set where the entry still gives the leaf. -/
def State.gatherUse (s : State) (c : BankCmd) : State :=
  if c.entries.zipIdx.any fun (e, k) => (s.gathered c k e.1).2 then s
  else c.pages.foldl (fun s q => match s.walk c.part c.asid (65536 * q.1) .read with
    | .leaf l => if l.same q.2 then s.useLeaf sysAgent c.part c.asid (65536 * q.1) .read l else s
    | .fault .. => s) s

/-- A gather's data returns to its pending result (R169, R332). -/
def State.gatherReturn (s : State) (c : BankCmd) : State :=
  let s := s.bankMeet c (s.unread c (List.range c.entries.length))
  ((s.gatherUse c).dropBank c.id).mapCtx c.slot fun x =>
    { x with pend := x.pend.map fun (p : Pending) =>
        if p.tag == c.tag && !p.done then
          match p.vals with
          | v :: r =>
            let (y, late) := s.gatherValue c x.lanes (BitVec.ofNat 16384 v.val)
            { p with done := true, vals := { v with val := y.toNat } :: r, late := late }
          | [] => { p with done := true }
        else p }

/-- The next update of a scatter-add (R332): one element read, added to and written. Poison stops the rest. -/
def State.scaddOne (s : State) (c : BankCmd) : State :=
  match c.entries with
  | [] => s.dropBank c.id
  | e :: r =>
    let s := s.bankMeet c c.readVas
    let w := c.ty.bits
    let (x, p) := s.bankGet c e.1 w
    if p then
      (s.dropBank c.id).post c.slot { code := 0x0E8, tval := BitVec.ofNat 64 (e.1 / 128 * 128), unit := 5 }
    else
      let y := if c.ty.isFp then (addFp (fmtOf c.ty) .rne (decodeFp (fmtOf c.ty) x) (decodeFp (fmtOf c.ty) e.2)).1
               else low (x + e.2) w
      let s := s.bankPut c e.1 w y
      let c := { c with entries := r, done := c.done + 1 }
      if r = [] then s.dropBank c.id else s.mapBank c.id fun _ => { c with owed := c.load }

/-! ### Progress (R125, R350) -/

/-- The octets of a command's pages. -/
def BankCmd.octets (c : BankCmd) : List Nat := (c.pages.map fun q => octetOf (q.2.pa (65536 * q.1))).eraseDups

/-- No earlier bank command of the same context uses an octet of this one (R125). -/
def State.bankTurn (s : State) (c : BankCmd) : Bool :=
  (s.bank.takeWhile fun b => b.id != c.id).all fun b => b.slot != c.slot || (b.octets.filter c.octets.contains).isEmpty

/-- A memory-side operation of a context goes on as far as the order of its channel and the budgets let it (R125, R350): a `bcmd` or
a gather to its end, a scatter-add by one update. A `bcmd` that stops posts its cause (R330). -/
def State.bankTry (s : State) (id : Nat) : State :=
  match s.bankCmd id with
  | none => s
  | some c =>
    if !s.bankTurn c then s
    else if c.kind ≤ 2 then match s.runBank c with
      | (.stopped e _, s) => s.post c.slot { code := e, tval := c.recVa, unit := 5 }
      | (_, s) => s
    else
      let (go, s) := s.bankPay c fun _ => true
      if !go then s else if c.kind = 3 then s.gatherReturn c else s.scaddOne c

/-- A context's operation goes on as far as it can. -/
def State.bankOn (s : State) (c : BankCmd) : State := (List.replicate (c.entries.length + 1) c.id).foldl State.bankTry s

/-- Every memory-side operation of a slot's context completes, oldest first (R125, R311), as far as the budgets let it. -/
def State.finishBank (s : State) (slot : Nat) : State :=
  (s.bank.filter fun c => c.slot == slot && !c.node).foldl State.bankOn s

/-- A context has a memory-side operation that has not completed (R126, R311). -/
def State.bankBusy (s : State) (slot : Nat) : Bool := s.bank.any fun c => c.slot == slot && !c.node

end Sys2Proof.Machine
end

