-- ==== Sys2Proof/Machine/MatrixOps.lean ====
section
/-! DEFINITION. The work of the matrix queue (15 R281-R298): tile elements, block sums over proofed regions, fetched lines,
outer products, scales, and conversions out of and into tiles. -/

namespace Sys2Proof.Machine

/-! ### Tile elements (R282) -/

/-- The number of registers of the operand group (R289). -/
def groupCount (m nb w l : Nat) : Nat := ceilDiv (m * 32 * nb * w) (512 * l)

/-- The index of element (m, n) in the image of a tile under a grant of `l` lanes (R282). -/
def tileIdx (l m n : Nat) : Nat := 4 * l * m + n

/-- Element (m, n). -/
def TReg.get (t : TReg) (l m n : Nat) : Nat := Machine.bits t.bits (32 * tileIdx l m n) 32

/-- Element (m, n) is poisoned. -/
def TReg.bad (t : TReg) (l m n : Nat) : Bool := t.poison.getLsbD (tileIdx l m n)

/-- Element (m, n) written, with its poison (R282, R363). -/
def TReg.set (t : TReg) (l m n val : Nat) (p : Bool) : TReg :=
  { t with bits := setBits t.bits (32 * tileIdx l m n) 32 val,
           poison := setBits t.poison (tileIdx l m n) 1 (if p then 1 else 0) }

/-- A row flag set or cleared (R282). -/
def TReg.flag (t : TReg) (m : Nat) (on : Bool) : TReg := { t with flags := setBits t.flags m 1 (if on then 1 else 0) }

/-! ### Proofed regions (R304, R305) -/

/-- The region that begins at a tile of a cluster. -/
def State.regionAt (s : State) (o first : Nat) : Option Region := s.regions.find? fun r => r.cluster == o && r.first == first

/-- Element (i, c) of K-block `b` of a region, and the poison of its block (R305). -/
def State.weight (s : State) (r : Region) (w b i c : Nat) : Nat × Bool :=
  let bit := w * (128 * i + c)
  let (x, p) := s.tileGet r.cluster (r.first + b % r.count) (512 * w * (b / r.count) + bit / 8) (max 1 (w / 8))
  (low (x / 2 ^ (bit % 8)) w, p)

/-! ### Fetched lines (R290, R291) -/

/-- A pinned line read at its home by the tile fetch unit of cluster `o`, where the copy budget of its channel allows it (R291,
R349, R350). -/
def State.pinRead (s : State) (o : Nat) (p : Pinned) : Pinned × State :=
  match p.copy with
  | some _ => (p, s)
  | none =>
    if p.zero then ({ p with copy := some (0, false) }, s)
    else if !s.mayWork (sliceOf p.line) .copy then (p, s)
    else
      let (r, s) := (s.charge (sliceOf p.line) .copy 1).homeServe (originOf o) p.line p.key (p.ca == 2)
      ({ p with copy := some r }, s)

/-- Every line of a fetch has been read. -/
def Fetch.whole (f : Fetch) : Bool := f.lines.all fun p => p.copy.isSome

/-- A fetch as it stands when its pins are dropped: its lines are read again (R291). -/
def Fetch.unpinned (f : Fetch) : Fetch := { f with lines := f.lines.map fun (p : Pinned) => { p with copy := none } }

/-- A context's pins are dropped (R291). -/
def Ctx.unpin (c : Ctx) : Ctx :=
  { c with mq := c.mq.map fun (e : MEntry) => { e with fetch := e.fetch.map Fetch.unpinned }
           fetches := c.fetches.map Fetch.unpinned }

/-- A stopped `mpm` of a context waits for its posted cause, 0x0D8, to be taken (R291), on its hart or after a switch; one whose
cause waits for other work of the context waits on (R152). -/
def Ctx.mstopped (c : Ctx) : Bool :=
  (c.posted.any fun (p : Posted) => p.unit == 3 || p.code == 0x0D8) || c.due.any fun d => d.1.code == 0x0D8

/-- The lines that a cluster has pinned leave room for a fetch (R290): those of fetches issued before it count; a context stopped on
a posted cause holds none. -/
def State.mayPin (s : State) (o : Nat) (f : Fetch) : Bool :=
  let on := ((s.resident o).filter fun c => !c.mstopped).flatMap Ctx.fetchList
  ((on.filter fun g => g.id ≤ f.id).map fun (g : Fetch) => g.lines.length).sum ≤ 256

/-- Bytes at an address from the copies of a fetch. -/
def Fetch.byteAt (f : Fetch) (va : Nat) : Nat :=
  match f.lines.find? (fun p => p.va == va / 128) with
  | some { copy := some (d, _), .. } => lineGet d (va % 128) 1
  | _ => 0

/-- Activation element `j` of row `m` of a fetch. -/
def Fetch.elem (f : Fetch) (m j : Nat) : Nat :=
  let base := (f.base + BitVec.ofNat 64 m * f.stride).toNat
  let bit := f.width * j
  let a := base + bit / 8
  let x := f.byteAt a + 256 * (if f.width = 16 then f.byteAt (a + 1) else 0)
  low (x / 2 ^ (bit % 8)) f.width

/-- The first poisoned line that row `m` of block `b` of a fetch uses (R291). -/
def Fetch.poisonAt (f : Fetch) (m b : Nat) : Option Nat :=
  let base := (f.base + BitVec.ofNat 64 m * f.stride).toNat
  let lo := base + 32 * b * f.width / 8
  let hi := base + (32 * (b + 1) * f.width + 7) / 8
  (f.lines.find? fun p => lo / 128 ≤ p.va && p.va ≤ (hi - 1) / 128 && match p.copy with
    | some (_, q) => q
    | none => false).map (·.va)

/-! ### mpm (R288, R289) -/

/-- Activation element (m, 32 b + i) of the group of R289, whose first block is block 0. -/
def groupElem (l w nb : Nat) (vecs : List (BitVec 16384)) (m b i : Nat) : Nat :=
  let c := 512 * l / w
  let k := m * 32 * nb + 32 * b + i
  elemGet l w (vecs.getD (k / c) 0) (k % c)

/-- Products of one block as values, or none where invalid (R207). -/
def fpProducts (mx : Bool) (fa fw : Ty) (as ws : List Nat) : List (Option FVal) :=
  (as.zip ws).map fun (a, w) =>
    if mx then mulExact (mxVal fa a) (mxVal fw w) else mulExact (elemVal fa a) (elemVal fw w)

/-- One row of one block of an `mpm` (R288). `b` counts from the operation's first block. -/
def State.mpmRow (s : State) (e : MEntry) (r : Region) (blk : Bool) (kb0 nb b m : Nat) (t : TReg) : TReg :=
  let fa := tshA e.tsh
  let fw := tshW e.tsh
  let int := fw.isInt && !blk
  let as := (List.range 32).map fun i => match e.fetch with
    | some f => f.elem m (32 * b + i)
    | none => groupElem e.lanes fa.bits nb e.vecs m b i
  (List.range (tshN e.tsh)).foldl (fun (t : TReg) n =>
    let ws := (List.range 32).map fun i => s.weight r fw.bits (kb0 + b) i n
    let wbad := ws.any (·.2)
    let old := t.get e.lanes m n
    let bad := wbad || (!blk && t.bad e.lanes m n)
    if int then
      let sum := ((as.zip (ws.map (·.1))).map fun (a, w) => intVal fa a * intVal fw w).foldl (· + ·) 0
      let (y, sat) := satAdd32 old sum
      let t := t.set e.lanes m n y bad
      if sat then t.flag m true else t
    else
      let sum := blockSum (fpProducts (blk && fw.isInt) fa fw as (ws.map (·.1)))
      t.set e.lanes m n (if blk then sum else addF32 old sum) bad) t

/-- The rows of an `mpm` from (b, m) on, in order; where a fetched line is poisoned, the place and the line (R291). -/
def State.mpmRows (s : State) (e : MEntry) (r : Region) (blk : Bool) (kb0 nb : Nat) :
    List (Nat × Nat) → TReg → TReg × Option (Nat × Nat × Nat)
  | [], t => (t, none)
  | (b, m) :: rest, t =>
    match e.fetch.bind fun f => f.poisonAt m b with
    | some va => (t, some (b, m, va))
    | none => s.mpmRows e r blk kb0 nb rest (s.mpmRow e r blk kb0 nb b m t)

/-! ### The other operations -/

/-- `mopa` (R292): element `m` of va lies beyond its register where M exceeds the capacity, and is then a free value
(log 14). -/
def mopaTile (nd : Nat) (e : MEntry) (ty : Ty) (t : TReg) : TReg :=
  let w := ty.bits
  let va := e.vecs.getD 0 0
  let vb := e.vecs.getD 1 0
  let a (m : Nat) : Nat :=
    if m < e.lanes * 512 / w then elemGet e.lanes w va m else low (Config.word nd (4000 + m)).toNat w
  (List.range (tshM e.tsh)).foldl (fun (t : TReg) m =>
    (List.range (min e.vl (tshN e.tsh))).foldl (fun (t : TReg) n =>
      if !e.mask.getLsbD n then t else
        let b := elemGet e.lanes w vb n
        let old := t.get e.lanes m n
        let bad := t.bad e.lanes m n
        if ty = .i8 then
          let (y, sat) := satAdd32 old (toSigned 8 (a m) * toSigned 8 b)
          let t := t.set e.lanes m n y bad
          if sat then t.flag m true else t
        else
          t.set e.lanes m n (fmaFp fmtF32 .rne (elemVal ty (a m)) (elemVal ty b) (decodeFp fmtF32 old)).1 bad) t) t

/-- `mscacc` (R293). -/
def mscaccTile (e : MEntry) (td ts : TReg) : TReg :=
  let va := e.vecs.getD 0 0
  let vb := e.vecs.getD 1 0
  (List.range (tshM e.tsh)).foldl (fun (t : TReg) m =>
    (List.range (tshN e.tsh)).foldl (fun (t : TReg) n =>
      let sa := elemGet e.lanes 8 va m
      let sb := elemGet e.lanes 8 vb n
      let bad := td.bad e.lanes m n || ts.bad e.lanes m n
      if sa = 255 ∨ sb = 255 then t.set e.lanes m n (canonNan fmtF32).1 bad
      else
        let p : FVal := match decodeFp fmtF32 (ts.get e.lanes m n) with
          | .fin n m x => .fin n m (x + ((sa + sb : Nat) : Int) - 254)
          | v => v
        t.set e.lanes m n (addFp fmtF32 .rne (decodeFp fmtF32 (td.get e.lanes m n)) p).1 bad) t) td

/-- N' of R294 for an operand of width `w`. -/
def tileCount (e : MEntry) (w r0 : Nat) : Nat := min e.vl (min (e.lanes * 512 / w) ((tshM e.tsh - r0) * tshN e.tsh))

/-- One element of `mext`: its value and flags (R294). -/
def mextElem (ty ty2 : Ty) (mode : Rm) (x : Nat) : Nat × Flags :=
  if ty2 = .f32 then convElem ty mode (decodeFp fmtF32 x)
  else
    let z := toSigned 32 x
    let y := clampInt (tyLo ty) (tyHi ty) z
    (ofSigned ty.bits y, if y = z then 0 else fOF)

/-- `mext` with SUB = 0 (R294): the destination, its flags, and whether a poisoned element was consumed (R282). -/
def mextVec (e : MEntry) (f : TR) (ts : TReg) (old : BitVec 16384) : (BitVec 16384 × Flags) × Bool :=
  let w := f.ty.bits
  let r0 := bits (e.ops.getD 0 0) 0 6
  let n' := tileCount e w r0
  if n' = 0 then ((old, 0), false) else
  let step (acc : (BitVec 16384 × Flags) × Bool) (i : Nat) : (BitVec 16384 × Flags) × Bool :=
    let ((v, fl), p) := acc
    let m := r0 + i / tshN e.tsh
    let n := i % tshN e.tsh
    if e.mask.getLsbD i then
      let (x, g) := mextElem f.ty f.ty2 e.mode (ts.get e.lanes m n)
      ((elemSet e.lanes w v i x, fl ||| g), p || ts.bad e.lanes m n)
    else if f.mp then ((elemSet e.lanes w v i 0, fl), p)
    else ((v, fl), p)
  let ((v, fl), p) := (List.range n').foldl step ((old, 0), false)
  let v := if f.tp then v else (List.range (e.lanes * 512 / w - n')).foldl (fun (v : BitVec 16384) k => elemSet e.lanes w v (n' + k) 0) v
  ((v, fl), p)

/-- `mins` (R295). -/
def minsTile (e : MEntry) (f : TR) (t : TReg) : TReg :=
  let w := f.ty2.bits
  let vs := e.vecs.getD 0 0
  let r0 := bits (e.ops.getD 0 0) 0 6
  (List.range (tileCount e w r0)).foldl (fun (t : TReg) i =>
    if !e.mask.getLsbD i then t else
      let x := elemGet e.lanes w vs i
      let y := if f.ty = .f32 then (roundVal fmtF32 .rne (elemVal f.ty2 x)).1 else ofSigned 32 (toSigned w x)
      let m := r0 + i / tshN e.tsh
      (t.set e.lanes m (i % tshN e.tsh) y false).flag m false) t

/-! ### The queue -/

/-- A context's tile register written: the granules of it that `hit` names, from its first, are in the register file again, and those
of the row flags where they are written too (R151, R282). -/
def Ctx.putTile (c : Ctx) (k : Nat) (t : TReg) (hit : Nat → Bool) (flags : Bool := false) : Ctx :=
  { c with t := c.t.setIfInBounds k t }.rewrote fun g => regHit c.lanes (.t k) hit g || (flags && g == 32)

/-- An entry of the queue writes element (m, n) of its tile register, whatever the value. -/
def MEntry.writes (e : MEntry) (m n : Nat) : Bool :=
  match e.body with
  | .mzero _ => true
  | .mopa _ => m < tshM e.tsh && n < min e.vl (tshN e.tsh) && e.mask.getLsbD n
  | .mins f =>
    let r0 := bits (e.ops.getD 0 0) 0 6
    let i := (m - r0) * tshN e.tsh + n
    r0 ≤ m && n < tshN e.tsh && i < tileCount e f.ty2.bits r0 && e.mask.getLsbD i
  | _ => m < tshM e.tsh && n < tshN e.tsh

/-- A granule of a tile register, by its number from the first, holds an element that is written. -/
def tileHit (l : Nat) (on : Nat → Nat → Bool) (g : Nat) : Bool :=
  l != 0 && (List.range 16).any fun j => on ((16 * g + j) / (4 * l)) ((16 * g + j) % (4 * l))

/-- A tile register written by an entry of the queue. -/
def Ctx.entryTile (c : Ctx) (e : MEntry) (k : Nat) (t : TReg) (flags : Bool := false) : Ctx :=
  c.putTile k t (tileHit c.lanes e.writes) flags

/-- A tile's last-use mark ends: a word that writes it has issued (R172). -/
def Ctx.tileWritten (c : Ctx) (k : Nat) : Ctx :=
  { c with lastUse := c.lastUse.filter (· != .t k), lastNew := c.lastNew.filter (· != .t k) }

/-- A context's tile register written by the word in focus, `mld`: its rows and columns, and its row flags. -/
def Ctx.setTile (c : Ctx) (k : Nat) (t : TReg) : Ctx :=
  (c.putTile k t (tileHit c.lanes fun m n => m < tshM (c.cr 9) && n < tshN (c.cr 9)) true).tileWritten k

/-- The tile register that an instruction of the queue writes. -/
def tileDst : Instr → Option Nat
  | .mzero f | .mopa f | .mscacc f | .mins f => some f.rd.toNat
  | .mpm _ _ f => some f.rd.toNat
  | _ => none

/-- Source `j` of an entry, tile register `k`: where its word issued after a last use of it, each granule may read zero (R172). -/
def Ctx.tileSrc (c : Ctx) (nd : Nat) (e : MEntry) (j k : Nat) : TReg :=
  let t := c.t.getD k {}
  if !e.last.contains k then t
  else { t with bits := BitVec.ofNat 262144 (dropGranules nd (100 + 2 * c.mq.length + j) 262144 t.bits.toNat) }

/-- The pending result of `mext` completes (R168, R285). -/
def Ctx.mextDone (c : Ctx) (tag : Nat) (val : Nat) (fl : Flags) (late : Option CauseVal) : Ctx :=
  { c with pend := c.pend.map fun (p : Pending) =>
      if p.tag == tag && !p.done then
        { p with done := true, flags := fl, late := late,
                 vals := p.vals.map fun (v : RegVal) => { v with val := val } }
      else p }.wroteTag tag

/-- What one entry of the queue does to its context (R287-R295). For `mpm` the state is read for weights and fetched
lines. -/
def State.runEntry (s : State) (slot : Nat) (c : Ctx) (e : MEntry) : State :=
  match e.body with
  | .mzero f => s.mapCtx slot fun c => c.entryTile e f.rd.toNat {} true
  | .mpm blk _ f =>
    let sw := e.ops.getD 0 0
    let kb0 := bits sw 16 16
    let nb := bits sw 32 17
    match s.regionAt c.cluster (bits sw 0 7) with
    | none => s
    | some r =>
      let b0 := if (c.cr 8).getLsbD 63 then bits (c.cr 8) 32 16 else 0
      let m0 := if (c.cr 8).getLsbD 63 then bits (c.cr 8) 0 6 else 0
      let places := ((List.range nb).flatMap fun b => (List.range (tshM e.tsh)).map fun m => (b, m)).filter
        fun (b, m) => b0 < b || (b == b0 && m0 ≤ m)
      match s.mpmRows e r blk kb0 nb places (c.tileSrc s.nd e 0 f.rd.toNat) with
      | (t, none) => s.mapCtx slot fun c => (c.entryTile e f.rd.toNat t).setCr 8 0
      | (t, some (b, m, va)) =>
        let done := places.takeWhile (· != (b, m))
        s.mapCtx slot fun c =>
          let c := (c.putTile f.rd.toNat t (tileHit c.lanes fun i n => e.writes i n && done.any fun p => p.2 == i)).setCr 8
            (BitVec.ofNat 64 (2 ^ 63 + b * 2 ^ 32 + m))
          { { c with mq := e :: c.mq }.unpin with
                   posted := c.posted ++ [{ code := 0x0D8, tval := BitVec.ofNat 64 (128 * va), unit := 3, tiles := [f.rd.toNat] }] }
  | .mopa f => s.mapCtx slot fun c => c.entryTile e f.rd.toNat (mopaTile s.nd e f.ty (c.tileSrc s.nd e 0 f.rd.toNat))
  | .mscacc f => s.mapCtx slot fun c =>
      c.entryTile e f.rd.toNat (mscaccTile e (c.tileSrc s.nd e 0 f.rd.toNat) (c.tileSrc s.nd e 1 f.rs1.toNat))
  | .mext f => s.mapCtx slot fun c =>
      let old := (c.pend.find? fun p => p.tag == e.tag).bind fun p => p.vals.head?
      let ((v, fl), p) := mextVec e f (c.tileSrc s.nd e 1 f.rs1.toNat) (BitVec.ofNat 16384 ((old.map (·.val)).getD 0))
      c.mextDone e.tag v.toNat fl (if p then some { code := 0x0DC, tval := Config.word s.nd 77 } else none)
  | .mextFlags f => s.mapCtx slot fun c => c.mextDone e.tag (c.t.getD f.rs1.toNat {}).flags.toNat 0 none
  | .mins f => s.mapCtx slot fun c => c.entryTile e f.rd.toNat (minsTile e f (c.tileSrc s.nd e 0 f.rd.toNat)) true
  | _ => s

/-- A context's queue holds at most 16 entries (R285). -/
def queueMax : Nat := 16

/-! ### Slots of the matrix path (R285, R344) -/

/-- The slots whose requests for an entry wait at the matrix queue of a cluster, in the order of their arrival. -/
def State.asking (s : State) (o : Nat) : List Nat :=
  (s.asks.filter fun a => a.res == 1 && !a.granted && (s.resident o).any fun c => c.slot == a.slot).map (·.slot)

/-- The entries of a cluster's matrix queue that are taken or granted. -/
def State.entriesUsed (s : State) (o : Nat) : Nat :=
  ((s.resident o).map fun c => c.mq.length).sum
    + (s.asks.filter fun a => a.res == 1 && a.granted && (s.resident o).any fun c => c.slot == a.slot).length

/-- A free entry of a cluster's matrix queue is granted to the request whose turn it is (R285, R344). -/
def State.grantEntry (s : State) (o : Nat) : State :=
  if queueMax ≤ s.entriesUsed o then s
  else match s.winner 1 ((s.asking o).zipIdx) with
    | none => s
    | some slot =>
      let t := s.mapCtx slot fun c => c.pay 1
      { t with asks := t.asks.map fun a => if a.res == 1 && a.slot == slot then { a with granted := true } else a }

/-- The first line of a fetch that has not been read, read now, where the budget of its channel allows it (R350); `none` where there
is none. -/
def State.fetchNext (s : State) (o : Nat) (f : Fetch) : Option (Fetch × State) :=
  match f.lines.findIdx? fun (p : Pinned) => p.copy.isNone with
  | none => none
  | some k =>
    let (q, s) := s.pinRead o (f.lines.getD k { va := 0, line := 0, key := 0, ca := 0 })
    if q.copy.isNone then none else some ({ f with lines := f.lines.set k q }, s)

/-- The next line of a context's oldest fetch that is not read whole and may be pinned (R290, R291). -/
def State.nextLine (s : State) (c : Ctx) : Option (Fetch × Fetch × State) :=
  (c.fetchList.find? fun f => !f.whole && s.mayPin c.cluster f).bind fun f => (s.fetchNext c.cluster f).map fun r => (f, r)

/-- The contexts whose fetches have a line to read next, with the arrival of the request. -/
def State.fetching (s : State) (o : Nat) : List (Nat × Nat) :=
  ((s.resident o).filter fun c => !c.mstopped).filterMap fun c => (s.nextLine c).map fun r => (c.slot, r.1.id)

/-- The tile fetch unit of a cluster reads one line for the context whose turn it is (R291, R344). -/
def State.fetchTurn (s : State) (o : Nat) : State :=
  match (s.winner 4 (s.fetching o)).bind s.ctxOf with
  | none => s
  | some c => match s.nextLine c with
    | none => s
    | some (f, g, t) => t.mapCtx c.slot fun c => { c.pay 4 with
        mq := c.mq.map fun (e : MEntry) => if e.fetch = some f then { e with fetch := some g } else e
        fetches := c.fetches.map fun h => if h = f then g else h }

/-- Lines read for the context of a slot while its turn lasts, `n` at most (R290, R291, R344). -/
def State.readTurns (s : State) (slot o : Nat) : Nat → State
  | 0 => s
  | n + 1 => if s.winner 4 (s.fetching o) = some slot then (s.fetchTurn o).readTurns slot o n else s

/-- `n` turns of the tile fetch unit of a cluster. -/
def State.fetchTurns (s : State) (o n : Nat) : State := (List.range n).foldl (fun (s : State) _ => s.fetchTurn o) s

/-! ### The queue's progress -/

/-- An `mfetch` may leave the queue: the lines that it pins have room in the cluster (R290). -/
def State.fetchRoom (s : State) (c : Ctx) (e : MEntry) : Bool :=
  (e.fid.bind fun k => c.fetchList.find? fun f => f.id == k).all (s.mayPin c.cluster)

/-- The entry `e` runs for its context, the oldest of whose queue it is (R285), where its fetched lines are there. An `mfetch` waits for
room for its pins, and leaves its fetch to the `mpm` that consumes it (R290). -/
def State.runOldest (s : State) (slot : Nat) (c : Ctx) (e : MEntry) (r : List MEntry) : State :=
  if e.fetch.all Fetch.whole && s.fetchRoom c e then
    (s.mapCtx slot fun c => { c with mq := r }.rewrote fun g => 8 ≤ g && g < 16).runEntry slot c e
  else s

/-- The oldest entry of a context's queue runs (R285), where the context is on a hart (R298) and its fetched lines are there, read as
far as pins, budgets and turns allow (R290, R344, R350); one that stopped on a posted cause waits for it (R291). -/
def State.matrixOne (s : State) (slot : Nat) : State :=
  match s.ctxOf slot with
  | none => s
  | some c => match c.mq with
    | [] => s
    | e :: r =>
      if c.status != .running || c.mstopped then s
      else match e.fetch with
        | none => s.runOldest slot c e r
        | some f =>
          let s := s.readTurns slot c.cluster f.lines.length
          match s.ctxOf slot with
          | none => s
          | some c => match c.mq with
            | [] => s
            | e :: r => s.runOldest slot c e r

/-- The whole queue of a context runs, in order, as far as it can (R297). -/
def State.matrixAll (s : State) (slot : Nat) : Nat → State
  | 0 => s
  | fuel + 1 => (s.matrixOne slot).matrixAll slot fuel

end Sys2Proof.Machine
end

