-- ==== Sys2Proof/Machine/Classes.lean ====
section
/-! DEFINITION. What the convoy rules and last-use hints need to know of an instruction: its group (07 R171), the registers
it reads (R172), and whether it is supervisor-only (R175). -/

namespace Sys2Proof.Machine

/-- A matrix-queue operation (R171). -/
def isMatrix : Instr → Bool
  | .mshape .. | .mzero .. | .mpm .. | .mopa .. | .mfetch .. | .mscacc .. | .mext .. | .mextFlags .. | .mins .. | .mld ..
  | .mst .. => true
  | _ => false

/-- A vector memory instruction (R171, R257). -/
def isVMem : Instr → Bool
  | .vld .. | .vldff .. | .vst .. | .vldx .. | .vstx .. => true
  | _ => false

/-- A word with such an instruction takes a slot of a port of the cluster cache (R344): the scalar, vector and tile loads and stores and
the atomics (log 78). -/
def usesPort : Instr → Bool
  | .ld .. | .st .. | .pairLd .. | .pairSt .. | .amoAdd .. | .amoAnd .. | .amoOr .. | .amoXor .. | .amoMin .. | .amoMax ..
  | .amoSwap .. | .amocas .. | .famoAdd .. | .mld .. | .mst .. => true
  | i => isVMem i

/-- The stream register that a vector memory instruction names (R171). -/
def streamOf : Instr → Option Nat
  | .vld f => some f.rs1.toNat
  | .vldff f => some f.rs1.toNat
  | .vst f => some f.rs1.toNat
  | .vldx f => some f.rs1.toNat
  | .vstx f => some f.rs1.toNat
  | _ => none

/-- An engine command (R171, R301). -/
def isEngine : Instr → Bool
  | .cpy .. | .sld .. | .sst .. | .rallyRun .. | .enq .. | .enqb .. | .proof .. | .unproof .. => true
  | _ => false

/-- A vector configuration instruction (R171, R231). -/
def isVcfg : Instr → Bool
  | .setvl .. | .vclaim .. | .vcfg .. => true
  | _ => false

/-- A vector instruction, of opcodes 0x20 to 0x34 or slot opcode 0x30 (R171, R181, R187). -/
def isVector : Instr → Bool
  | .vadd .. | .vsub .. | .vmul .. | .vmulh .. | .vmin .. | .vmax .. | .vand .. | .vor .. | .vxor .. | .vshl .. | .vshr ..
  | .vsar .. | .vcmp .. | .vsel .. | .vwadd .. | .vwmul .. | .vnarrow .. | .vdot4 ..
  | .vfadd .. | .vfsub .. | .vfmul .. | .vfma .. | .vfnma .. | .vfdiv .. | .vfsqrt .. | .vfmin .. | .vfmax .. | .vfcmp ..
  | .vfabs .. | .vfneg .. | .vfexpo .. | .vfscale .. | .vrsqrte .. | .vrcpe .. | .vexp2e .. | .vlog2e ..
  | .vcvt .. | .vcvtSr .. | .vmxscale .. | .vmxq .. | .vmxdq ..
  | .vredsum .. | .vfredsum .. | .vredmin .. | .vredmax .. | .vfredmin .. | .vfredmax .. | .vscan ..
  | .vslideup .. | .vslidedn .. | .vperm .. | .vcompress .. | .vexpand .. | .vbcast .. | .vextS .. | .vinsS ..
  | .mand .. | .mor .. | .mxor .. | .mnot .. | .mpopc .. | .mfirst .. | .pairVectorRR .. => true
  | _ => false

/-- A vector instruction as R171 counts them: those of the lanes and the vector memory instructions (log 89). -/
def countsVector (i : Instr) : Bool := isVector i || isVMem i

/-- The source of the conflict that an instruction meets in its convoy (R171). DESIGN CHOICE: one that meets two at once names the source
of the table's first row (R189, log 97). -/
def conflictOf (c : Convoy) (i : Instr) : Option Nat :=
  if isMatrix i && c.matrix then some 3
  else if isVMem i && (match streamOf i with
      | some q => c.streams.contains q
      | none => false) then some 2
  else if isVMem i && 4 ≤ c.vmem then some 2
  else if isEngine i && c.engine then some 4
  else if isVcfg i && 0 < c.vec then some 1
  else if countsVector i && 32 ≤ c.vec then some 1
  else none

/-- The convoy after an instruction (R170). -/
def Convoy.add (c : Convoy) (i : Instr) : Convoy :=
  { begins := false
    vmem := c.vmem + (if isVMem i then 1 else 0)
    streams := match streamOf i with
      | some q => q :: c.streams
      | none => c.streams
    vec := c.vec + (if countsVector i then 1 else 0)
    matrix := c.matrix || isMatrix i
    engine := c.engine || isEngine i }

/-- The bits of a control register that supervisor mode alone may write (R360). -/
def ctlSupervisor (n : Nat) : Bool := (10 ≤ n && n ≤ 12) || n == 17 || n == 22 || (23 ≤ n && n ≤ 26)

/-- A supervisor-only instruction (R175, R360, R365). -/
def supervisorOnly : Instr → Bool
  | .hcfgRegister .. | .hcfgRestart .. | .hcfgRetire .. | .pteInv .. | .ctxResume .. | .ctxResumeRetire .. | .eret => true
  | .ctlWr n _ => ctlSupervisor n.toNat
  | .ctlSet n _ => ctlSupervisor n.toNat
  | .ctlClr n _ => ctlSupervisor n.toNat
  | _ => false

/-- The scalar registers that an instruction reads. -/
def scalarSrcs : Instr → List Reg
  | .add _ a b | .sub _ a b | .mul _ a b | .mulh _ a b | .mulhu _ a b | .div _ a b | .divu _ a b | .rem _ a b | .remu _ a b
  | .and _ a b | .or _ a b | .xor _ a b | .shl _ a b | .shr _ a b | .sar _ a b | .slt _ a b | .sltu _ a b | .min _ a b
  | .max _ a b | .minu _ a b | .maxu _ a b => [a, b]
  | .clz _ a | .ctz _ a | .popc _ a | .mov _ a => [a]
  | .sel _ a b c => [a, b, c]
  | .addi _ a _ | .andi _ a _ | .ori _ a _ | .xori _ a _ | .shli _ a _ | .shri _ a _ | .sari _ a _ | .slti _ a _
  | .sext _ a _ | .zext _ a _ => [a]
  | .bfx _ a _ _ => [a]
  | .bfi d a _ _ => [d, a]
  | .liHi d _ => [d]
  | .fadd _ a b _ | .fsub _ a b _ | .fmul _ a b _ | .fdiv _ a b _ => [a, b]
  | .fsqrt _ a _ => [a]
  | .ffma _ a b c _ => [a, b, c]
  | .fmin _ a b | .fmax _ a b | .fcmpEq _ a b | .fcmpLt _ a b | .fcmpLe _ a b | .fcmpUo _ a b => [a, b]
  | .fclass _ a | .fneg _ a | .fabs _ a => [a]
  | .fcvtI32F32 _ a _ | .fcvtN32F32 _ a _ | .fcvtI64F32 _ a _ | .fcvtF32I32 _ a _ | .fcvtF32N32 _ a _
  | .fcvtF32I64 _ a _ => [a]
  | .pairScalarRR _ _ a b | .pairFpRR _ _ a b => [a, b]
  | .pairAddi _ a _ | .pairAndi _ a _ | .pairOri _ a _ | .pairXori _ a _ | .pairSlti _ a _ => [a]
  | .pairShli _ a _ | .pairShri _ a _ | .pairSari _ a _ => [a]
  | .pairLd _ _ a _ => [a]
  | .pairSt _ d a _ => [d, a]
  | .beq a b _ | .bne a b _ | .blt a b _ | .bge a b _ | .bltu a b _ | .bgeu a b _ => [a, b]
  | .ret a | .loopInit a _ | .setvl _ a _ => [a]
  | .vadd f | .vsub f | .vmul f | .vmulh f | .vmin f | .vmax f | .vand f | .vor f | .vxor f | .vshl f | .vshr f | .vsar f
  | .vcmp _ f | .vsel f | .vwadd f | .vwmul f | .vfadd f | .vfsub f | .vfmul f | .vfma f | .vfnma f | .vfdiv f | .vfmin f
  | .vfmax f | .vfcmp _ f => if f.s then [f.rs2] else []
  | .vslideup f | .vslidedn f | .vextS f | .vbcast f => [f.rs3]
  | .vinsS f => [f.rs1, f.rs3]
  | .vfscale f => if f.s then [f.rs2] else []
  | .mshape f => [f.rs1]
  | .mpm _ _ f => [f.rs2]
  | .mfetch f => [f.rs1, f.rs2, f.rs3]
  | .mext f | .mins f => [f.rs2]
  | .mld f | .mst f => [f.rs1, f.rs2]
  | .ld _ a _ _ _ _ => [a]
  | .st a d _ _ _ _ => [a, d]
  | .qset _ a b _ _ _ => [a, b]
  | .qstr _ a => [a]
  | .amoAdd f | .amoAnd f | .amoOr f | .amoXor f | .amoMin f | .amoMax f | .amoSwap f => [f.rs1, f.rs2]
  | .amocas _ a b c _ _ _ _ => [a, b, c]
  | .famoAdd _ a b _ _ _ => [a, b]
  | .clnR a b | .invR a b | .cinvR a b | .discR a b => [a, b]
  | .happ a _ => [a]
  | .hld _ a t _ _ | .hldv _ a t _ => [a, t]
  | .hstat _ a _ _ => [a]
  | .kvapp _ a | .poolPop _ a => [a]
  | .poolPush a b => [a, b]
  | .proof _ _ b => [b]
  | .sld _ _ a b | .sst _ _ a b => [a, b]
  | .cpy a | .enq a | .bcmd a => [a]
  | .bgath _ a _ _ _ | .bscadd _ a _ _ _ => [a]
  | .barWait a _ | .wfe _ a => [a]
  | .ctlWr _ a | .ctlSet _ a | .ctlClr _ a => [a]
  | .ctxResume a | .ctxResumeRetire a => [a]
  | .pteInv a b _ => [a, b]
  | .hcfgRegister a | .hcfgRestart a | .hcfgRetire a => [a]
  | _ => []

/-- The number of index registers of an indexed instruction (R260). -/
def idxGroup (w : Nat) : Nat := max 1 (32 / w)

/-- `k` vector names from `r`. -/
def vnames (r : Reg) (k : Nat) : List Nat := (List.range k).map fun n => (r.toNat + n) % 64

/-- The vector names that an instruction reads, groups whole (R201, R242, R289, R310). -/
def vectorSrcs : Instr → List Nat
  | .vadd f | .vsub f | .vmul f | .vmulh f | .vmin f | .vmax f | .vand f | .vor f | .vxor f | .vshl f | .vshr f | .vsar f
  | .vcmp _ f | .vsel f | .vwadd f | .vwmul f | .vfadd f | .vfsub f | .vfmul f | .vfdiv f | .vfmin f | .vfmax f
  | .vfcmp _ f => f.rs1.toNat :: (if f.s then [] else [f.rs2.toNat])
  | .vfma f | .vfnma f => f.rs1.toNat :: f.rs3.toNat :: (if f.s then [] else [f.rs2.toNat])
  | .vdot4 f => [f.rd.toNat, f.rs1.toNat, f.rs2.toNat]
  | .vnarrow f => vnames f.rs1 2
  | .vfsqrt f | .vfabs f | .vfneg f | .vfexpo f | .vrsqrte f | .vrcpe f | .vexp2e f | .vlog2e f => [f.rs1.toNat]
  | .vfscale f => f.rs1.toNat :: (if f.s then [] else [f.rs2.toNat])
  | .vcvt f | .vcvtSr f => vnames f.rs1 (max 1 (f.ty2.bits / f.ty.bits))
  | .vmxscale f => [f.rs1.toNat]
  | .vmxq _ f => f.rs2.toNat :: vnames f.rs1 (max 1 (f.ty2.bits / f.ty.bits))
  | .vmxdq f => [f.rs1.toNat, f.rs2.toNat]
  | .vredsum f | .vfredsum f | .vredmin f | .vredmax f | .vfredmin f | .vfredmax f => [f.rs1.toNat, f.rs2.toNat]
  | .vscan _ f => [f.rs1.toNat]
  | .vslideup f | .vslidedn f | .vcompress f | .vexpand f | .vextS f => [f.rs1.toNat]
  | .vperm f => [f.rs1.toNat, f.rs2.toNat]
  | .pairVectorRR _ _ a b => [a.toNat, b.toNat]
  | .mopa f => [f.rs1.toNat, f.rs2.toNat]
  | .mscacc f => [f.rs2.toNat, f.rs3.toNat]
  | .mins f => [f.rs1.toNat]
  | .vst f => [f.rd.toNat]
  | .vldx f => vnames f.rs2 (idxGroup (EWidth.bits f.w))
  | .vstx f => f.rd.toNat :: vnames f.rs2 (idxGroup (EWidth.bits f.w))
  | .happ _ b => [b.toNat]
  | .enqb _ a _ => [a.toNat]
  | .bgath _ _ b _ _ => [b.toNat]
  | .bscadd d _ b _ _ => [d.toNat, b.toNat]
  | _ => []

/-- The mask registers that an instruction reads. -/
def maskSrcs : Instr → List Nat
  | .mand f | .mor f | .mxor f => [f.rs1.toNat, f.rs2.toNat]
  | .mnot f => [f.rs1.toNat]
  | .mpopc f | .mfirst f => [f.rs1.toNat, f.vm.toNat]
  | .vadd f | .vsub f | .vmul f | .vmulh f | .vmin f | .vmax f | .vand f | .vor f | .vxor f | .vshl f | .vshr f | .vsar f
  | .vcmp _ f | .vwadd f | .vwmul f | .vnarrow f | .vdot4 f | .vfadd f | .vfsub f | .vfmul f | .vfma f | .vfnma f | .vfdiv f
  | .vfsqrt f | .vfmin f | .vfmax f | .vfcmp _ f | .vfabs f | .vfneg f | .vfexpo f | .vfscale f | .vrsqrte f | .vrcpe f
  | .vexp2e f | .vlog2e f | .vcvt f | .vcvtSr f | .vmxscale f | .vmxq _ f | .vmxdq f | .vredsum f | .vfredsum f | .vredmin f
  | .vredmax f | .vfredmin f | .vfredmax f | .vscan _ f | .vslideup f | .vslidedn f | .vperm f | .vcompress f | .vexpand f
  | .vbcast f | .mopa f | .mext f | .mins f | .vsel f => [f.vm.toNat]
  | .vld f | .vldff f | .vst f | .vldx f | .vstx f => [f.vm.toNat]
  | .enqb _ _ m => [m.toNat]
  | .bgath _ _ _ m _ | .bscadd _ _ _ m _ => [m.toNat]
  | _ => []

/-- The stream registers that an instruction reads. -/
def streamSrcs : Instr → List Nat
  | .vld f | .vldff f | .vst f | .vldx f | .vstx f => [f.rs1.toNat]
  | .qlen _ q | .qinfo _ q _ => [q.toNat]
  | _ => []

/-- The tile registers that an instruction reads. -/
def tileSrcs : Instr → List Nat
  | .mscacc f => [f.rd.toNat, f.rs1.toNat]
  | .mext f | .mextFlags f => [f.rs1.toNat]
  | .mopa f | .mst f => [f.rd.toNat]
  | .mpm _ _ f => [f.rd.toNat]
  | _ => []

/-- The registers of a group whose size depends on what the context holds: those of an `enqb` after its first, by vl and the grant (R310),
and those of an `mpm`, by tsh, the grant and its scalar operand (R289). -/
def Ctx.groupSrcs (c : Ctx) : Instr → List Nat
  | .mpm _ fet f => if fet then [] else
      vnames f.rs1 (min 8 (groupCount (tshM (c.cr 9)) (bits (c.s.getD f.rs2.toNat 0) 32 17) (tshA (c.cr 9)).bits c.lanes))
  | .enqb _ a _ => if c.lanes = 0 then [] else
      (vnames a (ceilDiv (2 * min c.vl (min (32 * c.lanes) 64)) (8 * c.lanes))).drop 1
  | _ => []

/-- The source registers of an instruction, for a last-use hint (R172): s0 and m0 keep their reading. -/
def Ctx.sources (c : Ctx) (i : Instr) : List PReg :=
  ((scalarSrcs i).filterMap fun r => if r = 0 then none else some (.s r.toNat))
    ++ (vectorSrcs i ++ c.groupSrcs i).map (fun n => .v (c.vslot n))
    ++ ((maskSrcs i).filterMap fun n => if n = 0 then none else some (.m n))
    ++ (streamSrcs i).map .q ++ (tileSrcs i).map .t

end Sys2Proof.Machine
end

