-- ==== Sys2Proof/Machine/Ops.lean ====
section
/-! DEFINITION. What the meanings share: how a word retires or holds (06 R147, 07 R163), the results of producers (07 R166,
R168), taking a cause on the service route or the light route and returning (20 R354-R358, R366), the retirement of a
node (06 R155, R157), and the word boundary (07 R167-R172). -/

namespace Sys2Proof.Machine

/-! ### How a word ends -/

/-- A value that the specification does not state for ctl.tval (log 15). -/
def State.openTval (s : State) : Word := Config.word s.nd 77

/-- The context goes on after the word: the next word, or the resume word after a producer that ran again (R169). In a pair
the step advances the word once (R163). -/
def Ctx.advance (c : Ctx) : Ctx :=
  match c.views with
  | some _ => { c with held := false, fate := .retired }
  | none =>
    { c with last := c.pc, pc := if c.rpt then c.rword else c.pc + 1, rpt := false, rpop := [], rword := 0, redo := none,
             pslot := 0, held := false, fate := .retired }

/-- The word retires. -/
def State.retire (s : State) : Out := .next (s.mapCur Ctx.advance)

/-- The word retires and the context goes on at word `w` (R222). -/
def State.retireTo (s : State) (w : BitVec 32) : Out :=
  .next (s.mapCur fun c => { c with last := c.pc, pc := w, rpt := false, rpop := [], rword := 0, redo := none, held := false,
                                    fate := .retired })

/-- The word holds issue: it is the next word again, and nothing has changed (R147). -/
def State.hold (s : State) : Out := .next (s.mapCur fun c => { c with held := true, fate := .held })

/-! ### Results -/

/-- The poison marks of a vector register after elements `is` at width `w` are written (R240). -/
def Ctx.marksAfter (c : Ctx) (n w : Nat) (is : List Nat) : BitVec 8192 :=
  (is.foldl (fun c i => c.setMarkV n w i false) c).pv.getD n 0

/-- A fixed-latency producer writes its registers and raises its flags (R166, R197). -/
def State.produceFixed (s : State) (ws : List (PReg × Nat)) (fl : Flags) : State :=
  s.mapCur fun c => (ws.foldl (fun c w => c.writeReg w.1 w.2) c).orFlags fl

/-- One register of a pending result becomes visible, with the marks that a vector or a mask keeps (R240, R363). From then on a read below PD finds no older
value of it (R167). -/
def Ctx.showVal (c : Ctx) (v : RegVal) : Ctx :=
  if v.wrote then c else
    let c := { c with recent := c.recent.map fun (l : List (PReg × Word)) => l.filter fun e => e.1 != v.reg }.clearMarks v.reg
    let c := match v.reg with
      | .v n => { c with pv := c.pv.setIfInBounds n v.marks }
      | .m n => if n = 0 then c else { c with pm := c.pm.setIfInBounds n (v.marks.setWidth 4096) }
      | _ => c
    c.putReg v.reg v.val v.hit

/-- A pending result becomes visible (R168): it is written where no later word has written, results of earlier producers
yield to it, and its flags are ORed in (R197). -/
def Ctx.showPending (c : Ctx) (p : Pending) : Ctx :=
  let older := (c.pend.takeWhile (· != p)).map fun (q : Pending) => p.vals.foldl (fun q v => q.overtaken v.reg) q
  let newer := (c.pend.dropWhile (· != p)).drop 1
  (p.vals.foldl Ctx.showVal ({ c with pend := older ++ newer }.wroteTag p.tag)).orFlags p.flags

/-- A variable-latency producer's result: pending under the word's tag, or, with SA = 0, visible before the next word (R168).
`late` is a fault found when its data returns, which is taken at the visibility point, `ops` its operand values (R169), and `stream` the
stream register that the word moves; a producer that runs again keeps what a later `qset` has done to that (R258). -/
def State.produceVar (s : State) (vals : List RegVal) (fl : Flags) (late : Option CauseVal) (ops : List Word)
    (stream : Option Nat := none) : State :=
  let c := s.cur
  let p : Pending := { tag := c.ctl.sa.toNat, word := c.pc, slot := c.pslot, done := false, vals := vals, flags := fl,
                       late := late, ops := ops, pass := c.pass, stream := stream, reset := (c.redo.map (·.reset)).getD false }
  if c.ctl.sa = 0 ∧ late.isNone then { s with cur := { c with pend := c.pend ++ [p] }.showPending p }
  else { s with cur := { c with pend := c.pend ++ [p] }.wroteTag p.tag }

/-- The pending result of a producer whose data have not returned (R168), with its operand value for R169. -/
def State.pendVar (s : State) (vals : List RegVal) (op : Word) : State :=
  s.mapCur fun c =>
    let p : Pending := { tag := c.ctl.sa.toNat, word := c.pc, slot := c.pslot, done := false, vals := vals, ops := [op], pass := c.pass }
    { c with pend := c.pend ++ [p] }.wroteTag p.tag

/-- A result with SA = 0 whose data have returned without a fault is visible at once. -/
def State.showNow (s : State) : State :=
  match s.cur.pend.find? fun p => p.tag == 0 && p.done && p.late.isNone with
  | some p => { s with cur := s.cur.showPending p }
  | none => s

/-! ### Retirement of nodes (R155, R157) -/

/-- The requests of a slot's context at the shared resources are withdrawn (R344). -/
def State.dropAsks (s : State) (slot : Nat) : State := { s with asks := s.asks.filter fun a => a.slot != slot }

/-- A context has an engine command or a memory-side operation that has not ended: its node retires only then (log 41). -/
def State.busy (s : State) (slot : Nat) : Bool :=
  s.bankBusy slot || s.cmds.any fun (c : EngCmd) => c.slot == slot && !c.node && !c.ended

/-- Where a context stands when it leaves its hart for good: the hart is free. -/
def idleCtx (c : Ctx) : Ctx := { cluster := c.cluster, hart := c.hart, fate := .ended }

/-- The context of a slot leaves the module. -/
def State.dropCtx (s : State) (slot : Nat) : State :=
  if s.cur.status != .idle && s.cur.slot == slot then { s with cur := idleCtx s.cur }
  else { s with others := s.others.filter fun c => !(c.slot == slot && c.status != .idle) }

/-- The scope of a node's completion release (R120): the wider of its declared scope and .v. -/
def Node.releaseScope (n : Node) : Scope := if bits (wordAt n.words 0) 28 3 = 4 then .s else .v

/-- CSTAT (R157). -/
def cstatWord (st : Nat) (replayed : Bool) (code : Nat) : Nat := st + (if replayed then 4 else 0) + 16 * (code % 512)

/-- The bytes of a completion record of the node of a slot written at `va`; where it cannot be reached the event log records it
(log 16), and where its page is being moved it waits (R35). -/
def State.putRecord (s : State) (slot p asid : Nat) (va : Word) (x : Nat) : State :=
  match s.agentPut sysAgent p asid va.toNat 32 x with
  | .ok s => s
  | .error .wait => s.owe p asid slot (.record va x)
  | .error (.fault ..) => (s.walkMet p asid va.toNat).logEvent 0x175 0 p 1 2

/-- The completion record of a node written (R157). -/
def State.writeRecord (s : State) (n : Node) (st code : Nat) (prog img : Word) : State :=
  s.putRecord n.slot n.part n.asid n.crec
    (cstatWord st n.replay code + 2 ^ 64 * s.time + 2 ^ 128 * prog.toNat + 2 ^ 192 * img.toNat)

/-- The writes that wait are tried again, in their order, once the stager has moved a page (R35). -/
def State.payOwed (s : State) : State :=
  s.owed.foldl (fun (s : State) w => match w.act with
    | .record va x => s.putRecord w.slot w.part w.asid va x
    | .decrement va => s.decrementNext w.slot w.part w.asid va
    | .image c => (s.park c).getD s) { s with owed := [] }

/-- A line in its L2 slice written to DRAM (R55): it stays there, clean. -/
def State.l2Clean (s : State) (ln : Nat) : State :=
  match cacheFind s.l2 (sliceOf ln) ln with
  | some c => if inL2 ln false then
      let s := s.l2WriteBack c
      { s with l2 := s.l2.map fun (d : CLine) => if d.isAt (sliceOf ln) ln then { d with dirty := 0 } else d }
    else s
  | none => s

/-- The write-backs of earlier `cln.r` of a slot's context complete (R126). -/
def State.finishCleans (s : State) (slot : Nat) : State :=
  match s.ctxOf slot with
  | none => s
  | some c => if c.cleans = [] then s else
    (c.cleans.foldl State.l2Clean (s.drain (s.clock (originOf c.cluster)))).mapCtx slot fun c => { c with cleans := [] }

/-- A node retires in the order of R155: its producers have drained, flips back that waited for a resume are made, its record is written, its tiles pass or become free, its
lanes and barriers are given back, its release performs, and its successors are decremented; an engine node's writes are at their homes,
and a release at .s waits for the acknowledgement of remote ones (R120, R131). `pass` is false for a watchdog discard (R347). -/
def State.retireNode (s : State) (slot st code : Nat) (prog img : Word) (pass : Bool) : State :=
  match s.node slot with
  | none => s.dropCtx slot
  | some n =>
    let c := s.ctxOf slot
    let s := ((s.flipEnded slot).dropAsks slot).finishCleans slot
    let s := s.writeRecord n st code prog img
    let s := s.releaseTiles n pass
    let s := match c with
      | some c => s.releaseCaches c.cluster c.hart n.releaseScope
      | none => if n.releaseScope = Scope.s then s.ackFlits n.cluster else s
    let s := s.dropCtx slot
    let s := s.leaveBarriers n
    let s := s.stageSettle n
    let s := { s with nodes := s.nodes.filter (fun m => m.slot != slot)
                      drains := s.drains.filter (fun d => d.2.1 != slot)
                      gangs := s.gangs.filter fun g => s.nodes.any fun m => m.slot != slot && m.gang == some g.1
                      streams := s.streams.map fun (h : HStream) =>
                        { h with stalled := h.stalled.filter fun (q : Stall) => q.slot != slot } }
    (s.decrement n).retarget n.cluster

/-! ### Taking a cause: the service route (R355) -/

/-- A gather of a context has not returned. -/
def State.gathering (s : State) (slot : Nat) : Bool := s.bank.any fun b => b.slot == slot && b.kind == 3

/-- A gather is to give the pending result of a tag. -/
def State.gathersTag (s : State) (slot tag : Nat) : Bool := s.bank.any fun b => b.slot == slot && b.kind == 3 && b.tag == tag

/-- An entry of a context's queue is to give the pending result of a tag. -/
def Ctx.queuesTag (c : Ctx) (tag : Nat) : Bool := tag != 0 && c.mq.any fun (e : MEntry) => e.tag == tag

/-- The work in flight of a context before it is parked or switched out (R152, R364): its matrix queue runs as far as it can, its
gathers return as far as the budgets let them, and its producers complete, but for the results of entries that the queue keeps (R298). -/
def State.settleWork (s : State) (slot : Nat) : State :=
  let s := s.matrixAll slot queueMax
  let s := if s.gathering slot then s.finishBank slot else s
  s.mapCtx slot fun c =>
    { c with pend := c.pend.map fun (p : Pending) =>
        if c.queuesTag p.tag || s.gathersTag slot p.tag then p else { p with done := true } }

/-- The record at a node's HNDL. -/
def State.handlerOf (s : State) (slot : Nat) : Word := match s.node slot with
  | some n => wordAt n.words 10
  | none => 0

/-- A context's control registers as a service cause leaves them (R355). -/
def Ctx.noteCause (c : Ctx) (code : Nat) (tval : Word) (slot : Nat) : Ctx :=
  let c := c.setCr 10 (BitVec.ofNat 64 code)
  let c := c.setCr 11 (BitVec.ofNat 64 (c.pc.toNat + 2 ^ 32 * (slot % 2)))
  let c := { c.setCr 12 tval with due := none }
  if 4 ≤ code ∧ code ≤ 6 then { c with pc := c.pc + 1 } else c

/-- The oldest posted cause is in the parked image (R361). -/
def keepFirst : List Posted → List Posted
  | [] => []
  | p :: r => { p with kept := true } :: r

/-- A parked node: its context holds no hart and no pin, and its watchdog stops (R153, R291, R346). -/
def State.parkNode (s : State) (slot : Nat) : State :=
  let c := s.cur
  let s := { s.dropAsks slot with
    others := s.others ++ [{ c.unpin with status := .parked, leaving := false, held := false, views := none, fate := .ended, posted := keepFirst c.posted }]
    cur := idleCtx c }
  (s.mapNode slot fun n => { n with stat := .parked, watchOn := false, half := false }).retarget c.cluster

/-- The context in focus has met a cause, and no word of it issues any more; the cause waits until work in flight has ended, which the
budgets may delay (R152, R155, R350). -/
def State.await (s : State) (code : Nat) (tval : Word) (slot : Nat) : State :=
  s.mapCur fun c => { c with due := some ({ code := code, tval := tval }, slot), held := false, fate := .held }

/-- Serve of R355 for the context in focus, whose work in flight has settled: its image is parked and a handler submitted from HNDL,
or its node retires faulted. `code` is the cause, `slot` the slot of the word. The cause waits for gathers that have not returned
(R152) and, where the node is to retire, for every command of it. -/
def State.serveSettled (s : State) (code : Nat) (tval : Word) (slot : Nat) : State :=
  let k := s.cur.slot
  let last := s.cur.last
  let wait := s.await code tval slot
  let retire (t : State) (code : Nat) (img : Word) : State :=
    if s.busy k then wait else t.retireNode k 2 code (last.setWidth 64) img true
  if s.gathering k then wait else
  let s := s.releaseCaches s.cur.cluster s.cur.hart .v
  let s := s.mapCur fun c => c.noteCause code tval slot
  match s.park s.cur with
  | none => retire (s.imageMissed s.cur) 0x175 0
  | some s =>
    let img := s.cur.cr 17
    let h := s.handlerOf k
    if h = 0 then retire s code img
    else
      let cls := match s.node k with
        | some n => s.raisedClass n
        | none => 3
      let c := s.cur
      let inputs := [img, BitVec.ofNat 64 code, tval, c.cr 11, BitVec.ofNat 64 k]
      match s.submitHandler c.part c.asid h cls inputs (some k) with
      | some s => s.parkNode k
      | none => retire ((s.recordMet c.part c.asid h true).logEvent 0x176 0 c.part 1 2) code img

/-- The context in focus as a cause finds it, its work in flight settled (R152). -/
def State.settled (s : State) : State := (s.mapCur fun c => { c with views := none, held := false }).settleWork s.cur.slot

/-- A cause that waited is served once its work has ended. -/
def State.serveDue (s : State) (d : CauseVal × Nat) : State :=
  (s.finishBank s.cur.slot).settled.serveSettled d.1.code d.1.tval d.2

/-- Serve of R355 for the context in focus. -/
def State.serve (s : State) (code : Nat) (tval : Word) (slot : Nat) : State := s.settled.serveSettled code tval slot

/-- A read that ends in a cause of poison has met the error of the stored line (R74). -/
def State.metCause (s : State) (code : Nat) (tval : Word) : State :=
  s.metAt s.cur.part s.cur.asid (code / 64) (code % 8) tval.toNat

/-- A cause of the word that the context in focus was to run, on the service route. -/
def State.fault (s : State) (cls src kind : Nat) (tval : Word) : Out :=
  let code := causeCode cls src kind
  .next ((s.metCause code tval).serve code tval s.cur.pslot)

/-- A cause whose ctl.tval the specification does not state (log 15). -/
def State.faultOpen (s : State) (cls src kind : Nat) : Out := s.fault cls src kind s.openTval

/-! ### The light route (R358) -/

/-- ctl.tvec.V = 1 and ctl.tstat.ACT = 0 (R354). -/
def Ctx.lightReady (c : Ctx) : Bool := (c.cr 23).getLsbD 63 && !(c.cr 24).getLsbD 0

/-- The producer that is to run again, set aside (log 88). -/
def Ctx.rerun (c : Ctx) : Option Rerun :=
  if c.rpt then some { word := c.pc, slot := c.pslot, resume := c.rword, ops := c.rpop, redo := c.redo } else none

/-- A producer that was set aside is the next word again, where the return goes to its word (log 88). -/
def Ctx.runAgain (c : Ctx) (r : Option Rerun) : Ctx :=
  match r with
  | none => c
  | some r => if c.pc = r.word then
      { c with rpt := true, pslot := r.slot, rword := r.resume, rpop := r.ops, redo := r.redo } else c

/-- TakeLight of R358: `imm` goes to tcause.IMM and `next` is the word that would have issued. -/
def Ctx.takeLight (c : Ctx) (code : Nat) (imm next : BitVec 32) : Ctx :=
  let d := c.setCr 26 (BitVec.ofNat 64 (imm.toNat * 2 ^ 32 + code))
  let d := d.setCr 25 (next.setWidth 64)
  let d := d.setCr 24 (if c.super then 3 else 1)
  { d with super := true, pc := (c.cr 23).setWidth 32, last := c.last, held := false, fate := .ended, views := none, pslot := 0
           rpt := false, rword := 0, rpop := [], redo := none, aside := c.rerun, convoy := { drain := true } }

/-- The return of R358, for a context with ctl.tstat.ACT = 1. -/
def Ctx.lightReturn (c : Ctx) : Ctx :=
  let d := c.setCr 24 (setBits (c.cr 24) 0 1 0)
  let d := { d with super := (c.cr 24).getLsbD 1, pc := (c.cr 25).setWidth 32, last := c.pc, held := false, fate := .retired
                    aside := none, convoy := { drain := true } }
  d.runAgain c.aside

/-! ### Poison of operands (R363) -/

/-- A scalar operand of the word is poisoned; `half` where only [31:0] is read (R363). -/
def State.badS (s : State) (half : Bool) (rs : List Reg) : Bool := !s.cur.rpt && rs.any (s.cur.poisonedS half)

/-- The cause of a poisoned scalar operand, 0x0C3 (R352). -/
def State.poisonS (s : State) : Out := s.faultOpen 3 0 3

/-- The cause of a poisoned vector or mask operand, 0x0CB (R352). -/
def State.poisonV (s : State) : Out := s.faultOpen 3 1 3

/-! ### Visibility points (R168, R169) -/

/-- The producer of a pending result completes, where it can: the matrix queue runs for `mext`, and a gather's data return after the
context's earlier bank commands (R125). -/
def State.completeTag (s : State) (slot tag : Nat) : State :=
  match s.ctxOf slot with
  | none => s
  | some c =>
    let s := if c.queuesTag tag then s.matrixAll slot queueMax else s
    let s := if s.gathersTag slot tag then s.finishBank slot else s
    s.mapCtx slot fun c =>
      if c.queuesTag tag || s.gathersTag slot tag then c
      else { c with pend := c.pend.map fun (p : Pending) => if p.tag == tag then { p with done := true } else p }

/-- The oldest pending result among the tags is made visible, and so on; a fault found late is answered first (R169), and so
is an `mext` that the queue keeps behind a stopped `mpm` (R291). -/
def State.showTags (s : State) (sel : Nat → Bool) : Nat → Except Pending State
  | 0 => .ok s
  | fuel + 1 =>
    match s.cur.pend.find? (fun p => sel p.tag) with
    | none => .ok s
    | some p =>
      let s := s.completeTag s.cur.slot p.tag
      match s.cur.pend.find? (fun q => q.tag == p.tag) with
      | none => .ok s
      | some p =>
        if p.late.isSome || !p.done then .error p
        else { s with cur := s.cur.showPending p }.showTags sel fuel

/-- The queue of the context in focus runs until a cause of the matrix path is posted (R291). -/
def State.matrixCause (s : State) : State × Option Posted :=
  let s := s.matrixAll s.cur.slot queueMax
  (s, s.cur.posted.find? fun p => p.unit == 3 || p.code == 0x0D8)

/-- A fault found late is taken before the word in focus (R169): the producer runs again first after a resume, and no
register of its result is written. -/
def State.serveLate (s : State) (p : Pending) : State :=
  let cv := p.late.getD { code := 0, tval := 0 }
  let s := s.mapCur fun c =>
    { c with pend := c.pend.filter fun (q : Pending) => { q with done := p.done } != p
             rpt := true, rword := c.pc, rpop := p.ops, pc := p.word, pslot := p.slot
             redo := some { pass := p.pass, reset := p.reset } }
  s.serve cv.code cv.tval p.slot

/-- The tags whose results the word makes visible (R168, R170); tag 0 stands for a producer with SA = 0. -/
def waitsFor (ctl : Ctl) (convoy : Bool) (tag : Nat) : Bool :=
  convoy || tag == 0 || (1 ≤ tag && ctl.sw.getLsbD (tag - 1)) || (tag == ctl.sa.toNat && tag != 0)

/-! ### The word boundary -/

/-- Time passes with a step: one ck, and a free number more (log 8). -/
def State.tick (s : State) : State := { s with nd := s.nd + 1, time := s.time + (1 + Config.stepCk s.nd) }

/-- What a word leaves for the words after it (R167, R170, R172): one more distance, its convoy, its last uses, its time, and
the price of a slot at the cluster cache (R344). The granules of the program counter and of ctl.time are in the register file again
(R151). -/
def State.latch (s : State) (w : IWord) (is : List Instr) : State :=
  let c := s.cur
  let begins := w.ctl.cb || c.convoy.begins
  let conv : Convoy := if begins then {} else c.convoy
  let srcs := if w.ctl.hint = 2 then is.flatMap c.sources else []
  let dt := 1 + Config.stepCk s.nd
  let port := if is.any usesPort then c.pay 0 else c
  { s with
    nd := s.nd + 1
    time := s.time + dt
    cur := { c with ctl := w.ctl, convoy := is.foldl Convoy.add conv, recent := ([] :: c.recent).take 9, vtime := port.vtime,
                    lastUse := c.lastUse ++ c.lastNew, lastNew := srcs,
                    creg := c.creg.setIfInBounds 20 (BitVec.ofNat 64 (s.time + dt)) }.rewrote fun g => g == 0 || g == 6 }

/-- The waits of a word before it issues (R168, R170). The first word of a convoy makes every pending result visible: a word with
CB = 1, and the words at which a light trap is entered and left (R358). The first word after a resume begins a convoy without that
drain (R152's case, log 21). A matrix operation completes when the queue accepts it (R285), and a memory-side operation only at
R126's points. -/
def State.prep (s : State) (w : IWord) (is : List Instr) : Except Pending State :=
  match s.showTags (waitsFor w.ctl (w.ctl.cb || s.cur.convoy.drain)) 64 with
  | .error p => .error p
  | .ok s => .ok (s.latch w is)

/-! ### Posted causes and events (R308, R330, R359) -/

/-- The copy that the command block at an address describes, as a load of the context in focus would read it. -/
def State.blockAt (s : State) (a : Nat) : Option CopyJob :=
  if a % 64 ≠ 0 then none
  else match s.locateAll false .read (pieces a 64) with
    | .error _ => none
    | .ok ps => blockJob (wordsOf 8 (s.readPieces s.cur.cluster s.cur.hart false ps).1.1)

/-- The tiles that an instruction names in the ways that a posted engine cause waits for (R308): `own.take`, `own.test`, `rally.stat`
and the engine commands. The state is the one the word reads its operands in; while a wait of the word is not over there is none, and
the operands name nothing yet. -/
def tilesNamed (v : Option State) (i : Instr) : List Nat :=
  let span (a k : BitVec 7) : List Nat := (List.range (k.toNat + 1)).map fun j => a.toNat + j
  match i with
  | .ownTake a k => span a k
  | .ownTest _ a => [a.toNat]
  | .rallyStat _ a => [a.toNat]
  | .rallyRun a => [a.toNat]
  | .proof a k _ => span a k
  | .unproof a => [a.toNat]
  | .sld a off r q => (v.map fun s => (moveJob true a off (s.opS 0 r).toNat (s.opS 1 q).toNat).tileList).getD []
  | .sst a off r q => (v.map fun s => (moveJob false a off (s.opS 0 r).toNat (s.opS 1 q).toNat).tileList).getD []
  | .cpy r => ((v.bind fun s => s.blockAt (s.opS 0 r).toNat).map CopyJob.tileList).getD []
  | _ => []

/-- A posted cause is due before a word (R291, R308, R330). A cause of the matrix path that a switch has met is due before the first
word after the resume, as unit 0 (R291). -/
def Posted.dueAt (p : Posted) (v : Option State) (i : Instr) : Bool :=
  match p.unit with
  | 3 => isMatrix i || (match i with
      | .setvl .. | .nodeDone => true
      | _ => false)
  | 4 => (match i with
      | .nodeDone => true
      | _ => p.tiles.any (tilesNamed v i).contains)
  | 5 => (match i with
      | .bcmd .. | .bgath .. | .bscadd .. | .fenceB | .nodeDone => true
      | _ => false)
  | _ => true

/-- The pending event of the lowest kind that is enabled and may be taken (R354, R359). -/
def Ctx.eventDue (c : Ctx) : Option Nat :=
  if !c.lightReady then none
  else (List.range 4).find? fun k => (c.cr 28).getLsbD k && (c.cr 23).getLsbD (32 + k)

/-- The cause of an event (R359). -/
def eventCode : Nat → Nat
  | 0 => 0x1C0 | 1 => 0x1F9 | 2 => 0x1F2 | _ => 0x1FB

/-- The event of a kind taken before the word in focus (R358, R359). -/
def State.takeEvent (s : State) (k : Nat) : State :=
  s.mapCur fun c => (c.setCr 28 (setBits (c.cr 28) k 1 0)).takeLight (eventCode k) 0 c.pc

/-- The posted cause taken before the word in focus. The work in flight settles while the cause is still posted, so that a stopped
`mpm` goes on only after the resume (R291). -/
def State.takePosted (s : State) (p : Posted) : State :=
  let t := s.settled.mapCur fun c => { c with posted := c.posted.filter (· != p) }
  t.serveSettled p.code p.tval s.cur.pslot

/-- What stops the word in focus at a visibility point: the late fault of a producer (R169), or the cause of the `mpm` that
an `mext` waits behind (R291); a word whose producer has not completed waits on. -/
def State.takeLate (s : State) (p : Pending) : State :=
  if p.late.isSome then s.serveLate p
  else if !s.cur.queuesTag p.tag then s.mapCur fun c => { c with held := false, fate := .held }
  else match s.matrixCause with
    | (t, some q) => t.takePosted q
    | (t, none) => t.mapCur fun c => { c with held := false, fate := .held }

end Sys2Proof.Machine
end

