-- ==== Sys2Proof/Machine/MemScalar.lean ====
section
/-! DEFINITION. Scalar loads and stores (12 R252, R253), in full words and in pair slots (08 R187). -/

namespace Sys2Proof.Machine

/-! ### What the memory instructions share -/

/-- An address that leads nowhere ends the word: its cause with ctl.tval (R31, R76), or a wait (R35, R57). `b` lies in the page that
fails, where the access crosses into a second one. -/
def State.noPlace (s : State) (src a : Nat) (e : NoLoc) (b : Nat := a) : Out :=
  match e with
  | .fault c k none => (s.walked (if b = a then [] else [b])).fault c src k (BitVec.ofNat 64 a)
  | .fault c k (some entry) => (s.walked [a, b]).fault c src k (BitVec.ofNat 64 entry)
  | .wait => s.hold

/-- A variable-latency producer whose data return with a fault: the word has issued, the fault is taken at the visibility point,
and no register of the result is written (R169). -/
def State.produceLate (s : State) (vals : List RegVal) (cv : CauseVal) (ops : List Word) (stream : Option Nat := none) : Out :=
  ((s.metCause cv.code cv.tval).produceVar vals 0 (some cv) ops stream).retire

/-- The cause of a poisoned line or block (R76): `kind` 0 for memory, 2 for a scratchpad block. -/
def poisonCause (src : Nat) (p : Nat × Nat) : CauseVal := { code := causeCode 3 src p.2, tval := BitVec.ofNat 64 p.1 }

/-- The lines that an acquire's own read touches are served at its scope (R113). -/
def State.freshenAll (s : State) (sc : Scope) (ps : List (Nat × Nat × Loc)) : State :=
  ps.foldl (fun s p => match p.2.2 with
    | .page _ pa => s.freshen s.cur.cluster s.cur.hart (pa / 128) sc
    | _ => s) s

/-! ### Loads -/

/-- The size of a load in bytes (R253). -/
def LdSize.bytes : LdSize → Nat
  | .b | .bu => 1
  | .h | .hu => 2
  | .w | .wu => 4
  | .d => 8

/-- The register's value from the bytes that a load read (R253). -/
def LdSize.extend (z : LdSize) (x : Nat) : Word :=
  match z with
  | .bu | .hu | .wu => BitVec.ofNat 64 x
  | _ => sextWord (8 * LdSize.bytes z) x

/-- The size of a store in bytes (R253). -/
def StSize.bytes : StSize → Nat
  | .b => 1 | .h => 2 | .w => 4 | .d => 8

/-- A scalar load of `a` (R253): probe, read at its place, acquire. -/
def scalarLoad (z : LdSize) (rd : Reg) (a : Word) (ord : MemOrd) (sc : Scope) (ops : List Word) (s : State) : Out :=
  match s.locateAll true .read (pieces a.toNat (LdSize.bytes z)) with
  | .error (b, e) => s.noPlace 0 a.toNat e b
  | .ok ps =>
    let acq := ord == .acq
    let (sc, t) := if acq then s.demote sc else (.h, s)
    let t := (t.useAll .read ps).freshenAll sc ps
    let ((x, bad), t) := t.readPieces t.cur.cluster t.cur.hart false ps
    let val : RegVal := { reg := .s rd.toNat, val := (LdSize.extend z x).toNat }
    match bad with
    | some p => s.produceLate [val] (poisonCause 0 p) ops
    | none =>
      let t := t.countDiscarded t.cur.part (discardedLines ps)
      let t := if acq then t.acquire sc else t
      (t.produceVar [val] 0 none ops).retire

/-- LD. -/
def execLd (rd rs1 : Reg) (sz : LdSize) (ord : MemOrd) (sc : Scope) (disp : BitVec 23) (s : State) : Out :=
  if s.badS false [rs1] then s.poisonS
  else
    let b := s.opS 0 rs1
    scalarLoad sz rd (b + disp.signExtend 64) ord sc [b] s

/-- The slot loads (R187): plain order. -/
def execPairLd (sz : LdSize) (rd rs : Reg) (imm : BitVec 12) (s : State) : Out :=
  if s.badS false [rs] then s.poisonS
  else
    let b := s.opS 0 rs
    scalarLoad sz rd (b + imm.signExtend 64) .plain .h [b] s

/-! ### Stores -/

/-- A scalar store to `a` (R253): probe, release, write; a release write performs at its scope without delay (R112). -/
def scalarStore (z : StSize) (a x : Word) (ord : MemOrd) (sc : Scope) (s : State) : Out :=
  match s.locateAll true .write (pieces a.toNat (StSize.bytes z)) with
  | .error (b, e) => s.noPlace 0 a.toNat e b
  | .ok ps =>
    let rel := ord == .rel
    let (sc, s) := if rel then s.demote sc else (.h, s)
    let s := if rel then s.release sc else s
    let s := s.useAll .write ps
    let s := s.writePieces s.cur.cluster s.cur.hart false (low x.toNat (8 * StSize.bytes z)) ps
    (if rel then s.release sc else s).retire

/-- ST. -/
def execSt (rs1 rs2 : Reg) (sz : StSize) (ord : MemOrd) (sc : Scope) (disp : BitVec 23) (s : State) : Out :=
  if s.badS false [rs1] || s.badS (StSize.bytes sz ≤ 4) [rs2] then s.poisonS
  else scalarStore sz (s.opS 0 rs1 + disp.signExtend 64) (s.opS 1 rs2) ord sc s

/-- The slot stores (R187): the rd field names the data register. -/
def execPairSt (sz : StSize) (rd rs : Reg) (imm : BitVec 12) (s : State) : Out :=
  if s.badS false [rs] || s.badS (StSize.bytes sz ≤ 4) [rd] then s.poisonS
  else scalarStore sz (s.opS 0 rs + imm.signExtend 64) (s.opS 1 rd) .plain .h s

end Sys2Proof.Machine
end

