-- ==== Sys2Proof/Machine/Atomic.lean ====
section
/-! DEFINITION. Atomics (12 R261, R262) at the place that 02 R45 gives, fences (12 R263) and maintenance by range (12 R264,
R265; 02 R58, R59). -/

namespace Sys2Proof.Machine

/-! ### One event at the place (R45, R118) -/

/-- What an atomic does with the old bytes: the new bytes, if it writes, and its flags. -/
abbrev Rmw := Nat → Option (Nat × Flags)

/-- The gathered lines of a cluster that hold an element in line `l` are dropped (R45, R49). -/
def State.dropGath (s : State) (o l : Nat) : State :=
  { s with gath := s.gath.filter fun g => !g.touches o l }

/-- The issuing cluster writes back its dirty bytes of the line and drops it (R45). -/
def State.giveUp (s : State) (o l : Nat) : State :=
  let s := s.dupTags o l
  match cacheFind s.cc o l with
  | some c => s.ccEvict c |>.dropGath o l
  | none => s.dropGath o l

/-- An atomic at the home of a line is one event there (R118): where it writes, every write that comes before its own (R109) is
applied first, then the read is served and the write applied with nothing between. -/
def State.homeRmw (s : State) (o l key : Nat) (chan : Bool) (off n : Nat) (f : Rmw) : (Nat × Bool × Flags) × State :=
  let ((d, p), s) := s.homeRead o l key chan
  let old := lineGet d off n
  if p then ((old, true, 0), s) else
  match f old with
  | none => ((old, false, 0), s)
  | some _ =>
    let ((d, p), s) := (s.drain (s.clock (originOf o))).homeServe (originOf o) l key chan
    let old := lineGet d off n
    if p then ((old, true, 0), s) else
    match f old with
    | none => ((old, false, 0), s)
    | some (x, fl) =>
      let s := s.send o l key chan (linePut 0 off n x) (byteSpan off n) false
      ((old, false, fl), s.drain (s.clock (originOf o)))

/-- An atomic of `n` bytes within one line at a located place, by hart `h` of cluster `o` (R45). The old bytes, whether the
line or block is poisoned, and the flags. Its write to a remote module is acknowledged before it completes (R118, R131). -/
def State.rmw (s : State) (o h : Nat) (sc : Scope) (loc : Loc) (n : Nat) (f : Rmw) : (Nat × Bool × Flags) × State :=
  match loc with
  | .tile t off =>
    let a := tileAddr o t off
    let old := lineGet (s.tmem.line (a / 128)) (a % 128) n
    if s.tmem.poisoned (a / 128) then ((old, true, 0), s) else
    match f old with
    | none => ((old, false, 0), s)
    | some (x, fl) =>
      ((old, false, fl), { s with tmem := s.tmem.merge (a / 128) (linePut 0 (a % 128) n x) (byteSpan (a % 128) n) false })
  | .scratch a =>
    let old := s.l2s.get a n
    if s.l2s.poisoned (a / 128) then ((old, true, 0), s) else
    match f old with
    | none => ((old, false, 0), s)
    | some (x, fl) =>
      ((old, false, fl), { s with l2s := s.l2s.merge (a / 128) (linePut 0 (a % 128) n x) (byteSpan (a % 128) n) false })
  | .page l pa =>
    let ln := pa / 128
    match region pa with
    | .fast | .cap =>
      if l.ca = 0 then
        if Scope.wide sc then (s.giveUp o ln).homeRmw o ln l.key false (pa % 128) n f
        else
          let s := s.dupTags o ln
          let (c, s) := s.ccFetch o ln l.key
          let old := lineGet c.data (pa % 128) n
          if c.poison then ((old, true, 0), s) else
          match f old with
          | none => ((old, false, 0), s)
          | some (x, fl) =>
            ((old, false, fl), s.ccWrite o h ln l.key (linePut 0 (pa % 128) n x) (byteSpan (pa % 128) n) false)
      else s.homeRmw o ln l.key (l.ca == 2) (pa % 128) n f
    | _ =>
      let s := if region pa == .remote then s else s.drain (s.clock (originOf o))
      let ((old, bad), s) := s.readBeyond l.part pa n
      if bad then ((old, true, 0), s) else
      match f old with
      | none => ((old, false, 0), s)
      | some (x, fl) =>
        let s := s.sendOut o none l pa (linePut 0 (pa % 128) n x) (byteSpan (pa % 128) n) false
        ((old, false, fl), if region pa == .remote then s.ackFlits o else s.drain (s.clock (originOf o)))

/-- An atomic that its place does not support (R186, R352): at .h on a CA = 10 page, or `famo.add` beyond the memory. -/
def badPlace (sc : Scope) (famo : Bool) (loc : Loc) : Bool :=
  match loc with
  | .page l pa => (sc == .h && l.ca == 2) || (famo && (match region pa with
      | .fast | .cap => false
      | _ => true))
  | _ => false

/-- The device registers take no atomic (R383). -/
def onDevice (loc : Loc) : Bool :=
  match loc with
  | .page _ pa => region pa == .device
  | _ => false

/-- An atomic (R262), which the device registers do not take (R383): `a` is its address before alignment, `f` what it does to the old bytes, `ext` the register's value, and
`ops` its operand values (R169). -/
def atomic (n : Nat) (rd : Reg) (a : Word) (ord : MemOrd) (sc : Scope) (famo : Bool) (f : Rmw) (ext : Nat → Word)
    (ops : List Word) (s : State) : Out :=
  let c := s.cur
  let va := a.toNat / n * n
  match s.reach c true va .write 0 with
  | .error e => s.noPlace 0 va e
  | .ok loc =>
    if badPlace sc famo loc then s.fault 2 0 6 (BitVec.ofNat 64 va)
    else
      let (sc, t) := s.demote sc
      let t := if ord == .rel || ord == .ar then t.release sc else t
      let t := t.useAll .write [(va, n, loc)]
      let ((old, bad, fl), t) := t.rmw c.cluster c.hart sc loc n f
      let val : RegVal := { reg := .s rd.toNat, val := (ext old).toNat }
      if bad then
        let kind := match loc with
          | .tile .. => 2
          | _ => 0
        s.produceLate [val] (poisonCause 0 (va / 128 * 128, kind)) ops
      else
        let t := if ord == .acq || ord == .ar then t.acquire sc else t
        (t.produceVar [val] fl none ops).retire

/-- An `amo` (R262): `op` takes the old value and the operand. -/
def amo (f : Amo) (op : Nat → Nat → Nat → Nat) (s : State) : Out :=
  let n := if f.dbl then 8 else 4
  if s.badS false [f.rs1] || s.badS (!f.dbl) [f.rs2] then s.poisonS
  else
    let b := s.opS 0 f.rs1
    let x := s.opS 1 f.rs2
    atomic n f.rd (b + f.disp.signExtend 64) f.ord f.sc false
      (fun old => some (low (op (8 * n) old (low x.toNat (8 * n))) (8 * n), 0)) (sextWord (8 * n)) [b, x] s

/-- The signed minimum at a width. -/
def amoLess (w a b : Nat) : Nat := if toSigned w b < toSigned w a then b else a
/-- The signed maximum at a width. -/
def amoMore (w a b : Nat) : Nat := if toSigned w a < toSigned w b then b else a

/-- AMO_ADD. -/
def execAmoAdd (f : Amo) (s : State) : Out := amo f (fun _ a b => a + b) s
/-- AMO_AND. -/
def execAmoAnd (f : Amo) (s : State) : Out := amo f (fun _ a b => a &&& b) s
/-- AMO_OR. -/
def execAmoOr (f : Amo) (s : State) : Out := amo f (fun _ a b => a ||| b) s
/-- AMO_XOR. -/
def execAmoXor (f : Amo) (s : State) : Out := amo f (fun _ a b => a ^^^ b) s
/-- AMO_MIN: signed. -/
def execAmoMin (f : Amo) (s : State) : Out := amo f amoLess s
/-- AMO_MAX: signed. -/
def execAmoMax (f : Amo) (s : State) : Out := amo f amoMore s
/-- AMO_SWAP. -/
def execAmoSwap (f : Amo) (s : State) : Out := amo f (fun _ _ b => b) s

/-- AMOCAS: it writes the new value where the old one is the expected one. -/
def execAmocas (rd rs1 rs2 rs3 : Reg) (dbl : Bool) (ord : MemOrd) (sc : Scope) (disp : BitVec 17) (s : State) : Out :=
  let n := if dbl then 8 else 4
  if s.badS false [rs1] || s.badS (!dbl) [rs2, rs3] then s.poisonS
  else
    let b := s.opS 0 rs1
    let e := s.opS 1 rs2
    let x := s.opS 2 rs3
    atomic n rd (b + disp.signExtend 64) ord sc false
      (fun old => if old = low e.toNat (8 * n) then some (low x.toNat (8 * n), 0) else none) (sextWord (8 * n)) [b, e, x] s

/-- FAMO_ADD: an FP32 sum rounded to nearest; the old value is zero-extended. -/
def execFamoAdd (rd rs1 rs2 : Reg) (ord : MemOrd) (sc : Scope) (disp : BitVec 23) (s : State) : Out :=
  if s.badS false [rs1] || s.badS true [rs2] then s.poisonS
  else
    let b := s.opS 0 rs1
    let x := s.opS 1 rs2
    atomic 4 rd (b + disp.signExtend 64) ord sc true
      (fun old => some (addFp fmtF32 .rne (decodeFp fmtF32 old) (decodeFp fmtF32 (low x.toNat 32)))) (BitVec.ofNat 64) [b, x] s

/-! ### Fences (R263) -/

/-- FENCE (R116): the release actions and then the acquire actions. -/
def execFence (sc : Scope) (s : State) : Out :=
  let (sc, s) := s.demote sc
  ((s.release sc).acquire sc).retire

/-- The context's stores to memory-side pages have performed at their channels (R125, R126). -/
def State.drainChan (s : State) : State :=
  match (s.sends.filter fun t => t.cluster == s.cur.cluster && t.chan).getLast? with
  | some t => s.drain t.stamp
  | none => s

/-- FENCE_B (R125): it waits until earlier memory-side operations have completed; a command that stops meanwhile is answered first
(R330). -/
def execFenceB (s : State) : Out :=
  let s := ((s.drainChan).finishCleans s.cur.slot).finishBank s.cur.slot
  if s.bankBusy s.cur.slot || s.cur.posted.any (fun p => p.unit == 5) then s.hold else s.retire

/-! ### Maintenance by range (R264, R265) -/

/-- The pages of a range of `len` bytes: the first address of the range in each. -/
def rangePages (a len : Nat) : List Nat :=
  if len = 0 then []
  else (List.range ((a % 65536 + len + 65535) / 65536)).map fun k => if k = 0 then a else (a / 65536 + k) * 65536

/-- The pages of a range translated (R264): a window address translates nothing; the first that fails decides. The device registers take
no maintenance (R383). -/
def State.rangeLeaves (s : State) (acc : Acc) : List Nat → Except (Nat × NoLoc) (List (Nat × Leaf))
  | [] => .ok []
  | a :: r =>
    if windowBase ≤ a ∧ a < 2 ^ 55 then s.rangeLeaves acc r
    else match s.reach s.cur false a acc 128 with
      | .error e => .error (a, e)
      | .ok (.page l _) => (s.rangeLeaves acc r).map fun rest => (a, l) :: rest
      | .ok _ => s.rangeLeaves acc r

/-- The physical lines of a range, with their keys: pages that hold cached lines and are not discarded. -/
def rangeLines (a len : Nat) (ps : List (Nat × Leaf)) : List (Nat × Nat) :=
  ps.flatMap fun (b, l) =>
    if l.ca = 2 || l.d then [] else
      let stop := min (a + len) ((b / 65536 + 1) * 65536)
      (List.range ((stop + 127) / 128 - b / 128)).map fun k => (l.pa ((b / 128 + k) * 128) / 128, l.key)

/-- The dirty bytes of a line in the hart's L1 and the cluster's cache go to its home and on to DRAM (R265). Until a `fence.b` a
`cln.r` need not have completed (R125, R336): whether it has written DRAM at once is free for each line (log 90). -/
def State.cleanLine (s : State) (o h : Nat) (drop : Bool) (ln : Nat) : State :=
  let w := l1Owner o h
  let s := match cacheFind s.l1 w ln with
    | some c =>
      let s := s.l1WriteBack c
      { s with l1 := if drop then cacheDrop s.l1 w ln
                     else s.l1.map fun (d : CLine) => if d.isAt w ln then { d with dirty := 0 } else d }
    | none => s
  let s := match cacheFind s.cc o ln with
    | some c =>
      let s := s.ccSend c
      { s with cc := if drop then cacheDrop s.cc o ln
                     else s.cc.map fun (d : CLine) => if d.isAt o ln then d.cleaned else d }
    | none => s
  let s := if drop then s.dropGath o ln else s
  if !drop && Config.choice s.nd (9000000 + ln) then s.mapCur fun c => { c with cleans := c.cleans ++ [ln] }
  else
    let s := (s.drain (s.clock (originOf o))).l2Clean ln
    if drop && inL2 ln false then { s with l2 := cacheDrop s.l2 (sliceOf ln) ln } else s

/-- A line discarded (R58, R59, R265): `all` drops it from every scalar L1 of the cluster. What the cluster has sent to the line
reaches its home first, so no copy comes back there (R126). Whether the home's write-back of
dirty data had begun is free, once for each line. -/
def State.discardLine (s : State) (o h : Nat) (all : Bool) (ln : Nat) : State :=
  let s := s.drainLine o ln
  let s := { s with l1 := s.l1.filter fun c => !(c.line == ln && (if all then c.owner / 8 == o else c.owner == l1Owner o h))
                    cc := cacheDrop s.cc o ln }
  let s := s.dropGath o ln
  match cacheFind s.l2 (sliceOf ln) ln with
  | some c =>
    if inL2 ln false then
      let s := if Config.choice s.nd (7000000 + ln) then s.l2WriteBack c else s
      { s with l2 := cacheDrop s.l2 (sliceOf ln) ln }
    else s
  | none => s

/-- A maintenance instruction (R264): the whole range translates before any line is touched. A is set, and never DT. -/
def maintain (rs1 rs2 : Reg) (acc : Acc) (act : State → Nat → State) (s : State) : Out :=
  if s.badS false [rs1, rs2] then s.poisonS
  else
    let a := (s.opS 0 rs1).toNat
    let len := min (s.opS 1 rs2).toNat (2 ^ 32)
    match s.rangeLeaves acc (rangePages a len) with
    | .error (b, e) => s.noPlace 0 b e
    | .ok ps =>
      let s := ps.foldl (fun s p => s.useLeaf s.cur.cluster s.cur.part s.cur.asid p.1 .read p.2) s
      ((rangeLines a len ps).foldl (fun s l => act s l.1) s).retire

/-- CLN_R. -/
def execClnR (rs1 rs2 : Reg) (s : State) : Out :=
  maintain rs1 rs2 .read (fun s l => s.cleanLine s.cur.cluster s.cur.hart false l) s
/-- CINV_R. -/
def execCinvR (rs1 rs2 : Reg) (s : State) : Out :=
  maintain rs1 rs2 .write (fun s l => s.cleanLine s.cur.cluster s.cur.hart true l) s
/-- INV_R. -/
def execInvR (rs1 rs2 : Reg) (s : State) : Out :=
  maintain rs1 rs2 .write (fun s l => s.discardLine s.cur.cluster s.cur.hart true l) s
/-- DISC_R. -/
def execDiscR (rs1 rs2 : Reg) (s : State) : Out :=
  maintain rs1 rs2 .discard (fun s l => s.discardLine s.cur.cluster s.cur.hart false l) s

end Sys2Proof.Machine
end

