-- ==== Sys2Proof/Machine/Tile.lean ====
section
/-! DEFINITION. The tile instructions and engine commands of opcode 0x68 (16 R301-R308, R316-R318): ownership, proofed
regions, copies and Rally. -/

namespace Sys2Proof.Machine

/-! ### Checks (R302) -/

/-- Operand misuse of the tile engines, 0x162 (R302). -/
def State.tileMisuse (s : State) : Out := s.faultOpen 5 4 2

/-- What the tiles that a command names allow: the command, a wait, or the kind of the class-2 fault with the tile (R302, R308). -/
inductive TileCheck where
  | ok
  | wait
  | fault (kind n : Nat)
  deriving DecidableEq, Repr

/-- A command in flight holds a tile of a cluster for a node. -/
def State.tileBusy (s : State) (o slot n : Nat) : Bool :=
  s.cmds.any fun c => c.cluster == o && c.slot == slot && c.tiles.contains n

/-- The tiles that a command of the context in focus names, in order: a fault comes before a wait. -/
def State.checkTiles (s : State) (ns : List Nat) : TileCheck :=
  let c := s.cur
  ns.foldl (fun (acc : TileCheck) n => match acc with
    | .fault k m => .fault k m
    | a =>
      let o := (s.tile c.cluster n).owner
      if tileKind o = 3 then .fault 3 n
      else if tileKind o = 1 ∧ tileNode o = c.slot then a
      else if tileKind o = 2 ∧ tileNode o = c.slot then (if s.tileBusy c.cluster c.slot n then .wait else a)
      else .fault 2 n) .ok

/-- The answer of the tiles that a word touches, each with the first byte of the tile space touched in it, as the end of the word; or
the word goes on. ctl.tval is the window address of the first byte in the first tile that fails (R31). -/
def State.withTiles (s : State) (ts : List (Nat × Nat)) (k : Out) : Out :=
  match s.checkTiles (ts.map (·.1)) with
  | .fault kind n => s.fault 2 4 kind (BitVec.ofNat 64 (windowBase + ((ts.find? fun t => t.1 == n).map (·.2)).getD 0))
  | .wait => s.hold
  | .ok => k

/-- Whole tiles, each with its first byte. -/
def wholeTiles (ns : List Nat) : List (Nat × Nat) := ns.map fun n => (n, 65536 * n)

/-- Tiles handed over whole (R50, R51): the owner field written, and the tile no longer cleared. -/
def State.flipTiles (s : State) (o : Nat) (ns : List Nat) (f : Nat → BitVec 32) : State :=
  ns.foldl (fun s n => s.setTile { cluster := o, n := n, owner := f n, clear := false }) s

/-- The tiles n to n + k - 1. -/
def tileRange (n k1 : BitVec 7) : List Nat := (List.range (k1.toNat + 1)).map fun j => n.toNat + j

/-- A range of tiles that leaves the cluster (R302). -/
def rangeBad (n k1 : BitVec 7) : Bool := 128 < n.toNat + k1.toNat + 1

/-! ### Ownership (R303) -/

/-- OWN.TAKE: tile by tile, each one free, the context's own, or proofed for it; at the first other tile the word holds. -/
def takeTiles : List Nat → State → Out
  | [], s => s.retire
  | n :: r, s =>
    let c := s.cur
    let t := s.tile c.cluster n
    let mine := (tileKind t.owner = 1 ∨ tileKind t.owner = 3) ∧ tileNode t.owner = c.slot
    if mine then takeTiles r s
    else if t.takeable c.part then takeTiles r (s.flipTiles c.cluster [n] fun _ => ownerField 1 0 c.part 0 c.slot)
    else s.hold

/-- OWN.TAKE. -/
def execOwnTake (n k1 : BitVec 7) (s : State) : Out :=
  if rangeBad n k1 then s.tileMisuse else takeTiles (tileRange n k1) s

/-- Every tile is the context's. -/
def State.ownsAll (s : State) (ns : List Nat) : Bool :=
  ns.all fun n =>
    let o := (s.tile s.cur.cluster n).owner
    tileKind o == 1 && tileNode o == s.cur.slot

/-- OWN.GIVE. -/
def execOwnGive (n k1 : BitVec 7) (dest : BitVec 2) (s : State) : Out :=
  let c := s.cur
  let ns := tileRange n k1
  if rangeBad n k1 || !s.ownsAll ns then s.tileMisuse
  else
    let w := if dest = 0 then ownerField 0 0 c.part 0 0 else ownerField 2 (dest.toNat - 1) c.part 0 c.slot
    (s.flipTiles c.cluster ns fun _ => w).retire

/-- OWN.TEST. -/
def execOwnTest (rd : Reg) (n : BitVec 7) (s : State) : Out :=
  (s.produceFixed [(.s rd.toNat, (s.tile s.cur.cluster n.toNat).owner.toNat)] 0).retire

/-! ### Proofing (R53, R54, R304) -/

/-- PROOF. -/
def execProof (n k1 : BitVec 7) (rs2 : Reg) (s : State) : Out :=
  if s.badS false [rs2] then s.poisonS
  else if rangeBad n k1 then s.tileMisuse
  else
    let c := s.cur
    let ns := tileRange n k1
    let x := s.opS 0 rs2
    s.withTiles (wholeTiles ns) <|
      match shapeOf x (k1.toNat + 1) with
      | none => s.tileMisuse
      | some (t, cols, blocks) =>
        let r : Region := { cluster := c.cluster, first := n.toNat, count := k1.toNat + 1, fw := (Ty.code t).toNat,
                            cols := cols, blocks := blocks }
        let s := s.flipTiles c.cluster ns fun _ => ownerField 3 0 c.part n.toNat c.slot
        let s := s.dropRegion c.cluster n.toNat
        { s with regions := r :: s.regions }.retire

/-- An entry of a matrix queue reads the region that begins at tile `first` (R288). -/
def MEntry.readsRegion (e : MEntry) (first : Nat) : Bool :=
  match e.body with
  | .mpm .. => bits (e.ops.getD 0 0) 0 7 == first
  | _ => false

/-- UNPROOF: it waits for the context's matrix operations that read the region, and the contents are those of R54. -/
def execUnproof (n : BitVec 7) (s : State) : Out :=
  let c := s.cur
  let o := (s.tile c.cluster n.toNat).owner
  match s.regionAt c.cluster n.toNat with
  | none => s.tileMisuse
  | some r =>
    if !(tileKind o = 3 ∧ tileNode o = c.slot) then s.tileMisuse
    else
      let s := s.matrixAll c.slot queueMax
      if s.cur.mq.any fun e => e.readsRegion n.toNat then s.hold
      else
        let ns := (List.range r.count).map fun j => r.first + j
        let s := ns.foldl (fun s k => s.scrubTile c.cluster k) s
        ((s.flipTiles c.cluster ns fun _ => ownerField 1 0 c.part 0 c.slot).dropRegion c.cluster r.first).retire

/-! ### Copies (R306-R308) -/

/-- The writes of a copy, its source read now (R308), and the bytes that it moves. -/
def State.copyOut (s : State) (o : Nat) (pages : List (Nat × Leaf)) (j : CopyJob) : (List EngWrite × Nat) × State :=
  match j.shape with
  | some (t, cols, kb) =>
    let w := storeBits t
    let todo := (List.range kb).flatMap fun b => (List.range (4 * w)).map fun i => (b, i)
    let (out, s) := s.weightWrites o pages j.src j.ss (j.dst.toNat / 65536) j.tiles w (keptBits t w) cols todo
    ((out, 512 * w * kb), s)
  | none =>
    let (out, s) := s.copyRows o j.sp j.dp pages j.src j.dst j.len j.ss j.ds j.rows 0
    ((out, j.len * j.rows), s)

/-- The lines of a copy counted by the channel that charges them (R349), from the leaves of its source and of its destination. -/
def CopyJob.load (j : CopyJob) (rp wp : List (Nat × Leaf)) : List (Nat × Nat) :=
  let side (on : Bool) (pages : List (Nat × Leaf)) (rs : List (Int × Nat)) : List Nat :=
    if on then (lineVas rs).filterMap (chanOf pages) else []
  tally (side (j.sp == .mem) rp j.srcRuns ++ side (j.dp == .mem) wp j.dstRuns)

/-- A copy that has passed its operand checks: pages probed, source read, A and DT set; nothing of it happens on a fault, or, with
`none`, on a wait for a migration (R35). -/
def State.copyStart (s : State) (p asid o slot : Nat) (node : Bool) (j : CopyJob) : Except (Option Failed) State :=
  match s.probePages p asid .read (fun _ => none) (if j.sp == .mem then pagesOfRuns j.srcRuns else []) with
  | .error e => .error e
  | .ok rp => match s.probePages p asid .write (fun _ => none) (if j.dp == .mem then pagesOfRuns j.dstRuns else []) with
    | .error e => .error e
    | .ok wp =>
      let s := (s.usePages p asid .read rp).usePages p asid .write wp
      let s := if j.sp == .mem then s.countDiscarded p (discardedRuns rp j.srcRuns) else s
      let ((out, n), s) := s.copyOut o rp j
      let ns := j.tileList
      let s := s.flipTiles o ns fun _ => ownerField 2 0 p 0 slot
      .ok { s with
        serial := s.serial + 1
        cmds := s.cmds ++ [{ id := s.serial, slot := slot, part := p, asid := asid, cluster := o, node := node, op := .copy out n, tiles := ns,
                             pages := wp, load := j.load rp wp }] }

/-- A copy command of the context in focus (R308): tiles, pages, acceptance in the state `t` that the word has come to. -/
def State.copyCommand (s t : State) (j : CopyJob) : Out :=
  let c := s.cur
  let wins := (if j.sp == .mem then j.srcRuns else []) ++ (if j.dp == .mem then j.dstRuns else [])
  let hit := wins.find? fun (a, n) =>
    let a := (a % (2 ^ 64 : Nat)).toNat
    windowBase < a + n && a < 2 ^ 55
  match hit with
  | some (a, _) => s.fault 1 4 7 (BitVec.ofNat 64 (max (a % (2 ^ 64 : Nat)).toNat windowBase))
  | none => s.withTiles j.touches <|
      match t.copyStart c.part c.asid c.cluster c.slot false j with
      | .error none => s.hold
      | .error (some (cl, k, a)) => s.fault cl 4 k (BitVec.ofNat 64 a)
      | .ok t => t.retire

/-- `sld` and `sst` (R306). -/
def tileMove (load : Bool) (n : BitVec 7) (off : BitVec 9) (rs1 rs2 : Reg) (s : State) : Out :=
  if s.badS false [rs1, rs2] then s.poisonS
  else
    let a := (s.opS 0 rs1).toNat
    let len := (s.opS 1 rs2).toNat
    if windowBase ≤ a ∧ a < 2 ^ 55 then s.fault 1 4 7 (BitVec.ofNat 64 a)
    else if a % 128 ≠ 0 ∨ len % 128 ≠ 0 ∨ len < 128 ∨ 65536 < len ∨ 65536 * (128 - n.toNat) < 128 * off.toNat + len then
      s.tileMisuse
    else s.copyCommand s (moveJob load n off a len)

/-- SLD. -/
def execSld (n : BitVec 7) (off : BitVec 9) (rs1 rs2 : Reg) (s : State) : Out := tileMove true n off rs1 rs2 s
/-- SST. -/
def execSst (n : BitVec 7) (off : BitVec 9) (rs1 rs2 : Reg) (s : State) : Out := tileMove false n off rs1 rs2 s

/-- CPY: its block is read as a plain load of the context (R307). -/
def execCpy (rs1 : Reg) (s : State) : Out :=
  if s.badS false [rs1] then s.poisonS
  else
    let a := (s.opS 0 rs1).toNat
    if windowBase ≤ a ∧ a < 2 ^ 55 then s.fault 1 4 7 (BitVec.ofNat 64 a)
    else if a % 64 ≠ 0 then s.tileMisuse
    else match s.locateAll false .read (pieces a 64) with
      | .error (_, e) => s.noPlace 4 a e
      | .ok ps =>
        let ((x, bad), t) := (s.useAll .read ps).readPieces s.cur.cluster s.cur.hart false ps
        match bad with
        | some p => s.fault 3 4 0 (BitVec.ofNat 64 p.1)
        | none => match blockJob (wordsOf 8 x) with
          | none => s.tileMisuse
          | some j => s.copyCommand (t.countDiscarded s.cur.part (discardedLines ps)) j

/-! ### Rally (R313-R318) -/

/-- The reserved bytes of a Rally tile's header are zero (R313). -/
def State.rallyPad (s : State) (o t : Nat) : Bool := (s.tileGet o t 8 120).1 == 0

/-- A sort accepted: its tile flips to Rally (R308, R316). -/
def State.sortStart (s : State) (p o slot n : Nat) (node : Bool) : State :=
  let s := s.flipTiles o [n] fun _ => ownerField 2 1 p 0 slot
  { s with
    serial := s.serial + 1
    cmds := s.cmds ++ [{ id := s.serial, slot := slot, part := p, asid := 0, cluster := o, node := node, op := .sort, tiles := [n], pages := [] }] }

/-- RALLY.RUN. A poisoned header is met when the sort starts (R317). -/
def execRallyRun (n : BitVec 7) (s : State) : Out :=
  let c := s.cur
  s.withTiles (wholeTiles [n.toNat]) <|
    let h := s.rallyHdr c.cluster n.toNat
    let bad := (s.tileGet c.cluster n.toNat 0 8).2
    if !bad && !(hdrOk h && s.rallyPad c.cluster n.toNat) then s.tileMisuse
    else if !bad && hdrSt h == 2 then
      (s.flipTiles c.cluster [n.toNat] fun _ => ownerField 1 0 c.part 0 c.slot).retire
    else (s.sortStart c.part c.cluster c.slot n.toNat false).retire

/-- Steps of a sort that its header says are completed (R313, R315). -/
def hdrCount (h : Word) : Nat :=
  let n := 2 ^ hdrLog h
  if hdrSt h = 0 then 0
  else if hdrSt h = 2 then (2 * hdrLog h + 1) * n + 1
  else hdrPhase h * n + hdrStep h

/-- What a command's end means to its owner (R308, R312): an engine node retires; a context's tiles return, at its resume where it is
off its hart (R364). -/
def State.endCommand (s : State) (c : EngCmd) (prog : Nat) (fail : Option CauseVal) : State :=
  if c.node then
    let s := (s.dropCmd c.id).flipBack c
    match fail with
    | none => s.retireNode c.slot 1 0 (BitVec.ofNat 64 prog) 0 true
    | some v => s.retireNode c.slot 2 v.code (BitVec.ofNat 64 prog) 0 true
  else if (s.ctxOf c.slot).all fun x => x.status == .running then s.leaveEngine c fail
  else s.mapCmd c.id fun c => { c with running := false, parked := false, ended := true, fail := fail }

/-- Up to `k` steps of a sort (R316, R317): it stops on poison, ends when it is done, or goes on. -/
def State.sortSteps (s : State) (c : EngCmd) (k : Nat) : State :=
  let t := c.tiles.getD 0 0
  let h := s.rallyHdr c.cluster t
  match s.rallyPoison c.cluster t (2 ^ hdrLog h) with
  | some off => s.endCommand c c.steps (some { code := 0x0E2, tval := rallyTval t off })
  | none =>
    let s := s.rallyRun c k
    let h' := s.rallyHdr c.cluster t
    let n := c.steps + (hdrCount h' - hdrCount h)
    if hdrSt h' = 2 then s.endCommand c n none
    else s.mapCmd c.id fun c => { c with steps := n, running := true, parked := false }

/-- The class of a command's node (R317, R340). -/
def State.cmdClass (s : State) (c : EngCmd) : Nat := match s.node c.slot with
  | some n => s.raisedClass n
  | none => 3

/-- The sorts of a cluster that wait in Rally's queue, oldest first. -/
def State.sortsWaiting (s : State) (o : Nat) : List EngCmd :=
  s.cmds.filter fun c => c.cluster == o && c.op == .sort && !c.running && !c.parked && !c.ended

/-- The sort that Rally works on (R317). -/
def State.sortTurn (s : State) (o : Nat) : Option EngCmd := s.cmds.find? fun c => c.cluster == o && c.op == .sort && c.running

/-- The sort that has been parked longest (R317). -/
def State.sortParked (s : State) (o : Nat) : Option EngCmd := s.cmds.find? fun c => c.cluster == o && c.op == .sort && c.parked

/-- A sort that waits is more urgent than sort `c`, which then stands parked (R317). -/
def State.mustPark (s : State) (c : EngCmd) : Bool := (s.sortsWaiting c.cluster).any fun w => s.cmdClass w < s.cmdClass c

/-- The waiting sort that Rally starts next (R317, R344), if it starts one: while sorts are parked, one that is more urgent than the
oldest of them. -/
def State.sortNext (s : State) (o : Nat) : Option EngCmd :=
  if (s.sortTurn o).isSome then none
  else s.pickCmd 2 ((s.sortsWaiting o).filter fun w => (s.sortParked o).all fun p => s.cmdClass w < s.cmdClass p)

/-- RALLY.STAT (R318): a running sort may have taken any number of steps more. -/
def execRallyStat (rd : Reg) (n : BitVec 7) (s : State) : Out :=
  let c := s.cur
  let o := (s.tile c.cluster n.toNat).owner
  if !(tileNode o = c.slot ∧ (tileKind o = 1 ∨ (tileKind o = 2 ∧ bits o 28 2 = 1))) then s.tileMisuse
  else
    let s := match s.sortTurn c.cluster with
      | some k =>
        if k.tiles.contains n.toNat && k.slot == c.slot && !s.mustPark k && Config.choice s.nd 6 then
          s.sortSteps k (Config.pick s.nd 6 % rallyLimit)
        else s
      | none => s
    let o := (s.tile c.cluster n.toNat).owner
    let held := tileKind o == 2
    let parked := s.cmds.any fun k => k.cluster == c.cluster && k.tiles.contains n.toNat && k.parked
    let x := (if held then 2 ^ 63 else 0) + (if held && parked then 2 ^ 62 else 0)
      + bits (s.rallyHdr c.cluster n.toNat) 0 26
    (s.produceFixed [(.s rd.toNat, x)] 0).retire

/-! ### Events of the engines -/

/-- The copies of a cluster that wait for a channel: of each context the oldest (R308). -/
def State.copiesWaiting (s : State) (o : Nat) : List EngCmd :=
  s.cmds.filter fun c => c.cluster == o && c.op != .sort && !c.running && !c.ended
    && (s.cmds.find? fun k => k.slot == c.slot && k.op != .sort && !k.ended).map (·.id) == some c.id

/-- One of a cluster's two copy channels begins a command (R308, R344), where the budgets of its lines have credit (R350): from then
on it is not budgeted. -/
def State.grantCopy (s : State) (o : Nat) : State :=
  if 2 ≤ (s.cmds.filter fun c => c.cluster == o && c.op != .sort && c.running).length then s
  else match s.pickCmd 3 ((s.copiesWaiting o).filter fun c => c.load.all fun q => s.mayWork q.1 .copy) with
    | none => s
    | some c =>
      let s := c.load.foldl (fun (s : State) q => s.charge q.1 .copy q.2) s
      (s.payCmd 3 c).mapCmd c.id fun c => { c with running := true }

/-- Rally begins a sort (R317, R344), which consumes the poison of its tile first. -/
def State.grantSort (s : State) (o : Nat) : State :=
  match s.sortNext o with
  | none => s
  | some c => (s.payCmd 2 c).sortSteps c 0

/-- ENGINE_COMMAND_COMPLETE (R308): a copy that a channel runs applies its writes and ends. -/
def execEngineCommandComplete (id : Nat) (s : State) : Out :=
  match s.cmd id with
  | none => .next s
  | some c => match c.op with
    | .sort => .next s
    | .copy out n => if c.running then .next ((s.engWrites c out).endCommand c n none) else .next s

/-- RALLY_SORT_DONE (R315-R317): the sort that Rally works on runs to its end, while none that is more urgent waits. -/
def execRallySortDone (cluster : Nat) (s : State) : Out :=
  match s.sortTurn cluster with
  | none => .next s
  | some c => if s.mustPark c then .next s else .next (s.sortSteps c rallyLimit)

/-- RALLY_PARK (R317): after `steps` steps, at a step boundary at which a more urgent sort waits, the sort is parked. -/
def execRallyPark (cluster steps : Nat) (s : State) : Out :=
  match s.sortTurn cluster with
  | none => .next s
  | some c =>
    if !s.mustPark c then .next s
    else
      let s := s.sortSteps c steps
      match s.cmd c.id with
      | none => .next s
      | some c =>
        if c.ended then .next s
        else .next { s with cmds := (s.cmds.filter fun k => k.id != c.id) ++ [{ c with running := false, parked := true }] }

/-- RALLY_RESUME (R317): the oldest parked sort goes on when no more urgent one waits; it consumes poison as it resumes. -/
def execRallyResume (cluster : Nat) (s : State) : Out :=
  match s.sortTurn cluster, s.sortParked cluster with
  | none, some c => if s.mustPark c then .next s else .next (s.sortSteps c 0)
  | _, _ => .next s

end Sys2Proof.Machine
end

