-- ==== Sys2Proof/Machine/VecOps.lean ====
section
/-! DEFINITION. The element framework of the vector instructions: counts and capacities, masks and policies (11 R236), scalar
second operands (R237), groups (09 R201), poison of the elements that are read (R240), and the writing of vector and mask
registers with the marks they keep. -/

namespace Sys2Proof.Machine

/-! ### Counts (R236) -/

/-- The capacity of a register at width `w`: L x 512 / w (R236). -/
def Ctx.cap (c : Ctx) (w : Nat) : Nat := c.lanes * 512 / w

/-- N at width `w` (R236). -/
def Ctx.count (c : Ctx) (w : Nat) : Nat := min c.vl (c.cap w)

/-! ### Writing registers with their marks (R240) -/

/-- Elements written in a register (R142). -/
def writeElems (l w : Nat) (x : BitVec 16384) (es : List (Nat × Nat)) : BitVec 16384 :=
  es.foldl (fun (x : BitVec 16384) e => elemSet l w x e.1 e.2) x

/-- A register written with the marks that it keeps; m0 keeps none. -/
def Ctx.writeMarked (c : Ctx) (v : RegVal) : Ctx :=
  let c := c.writeReg v.reg v.val v.hit
  match v.reg with
  | .v n => { c with pv := c.pv.setIfInBounds n v.marks }
  | .m n => if n = 0 then c else { c with pm := c.pm.setIfInBounds n (v.marks.setWidth 4096) }
  | _ => c

/-- A fixed-latency vector instruction writes its registers and raises its flags; estart becomes 0 (R236). -/
def State.produceMarked (s : State) (vs : List RegVal) (fl : Flags) : State :=
  s.mapCur fun c => ((vs.foldl Ctx.writeMarked c).orFlags fl).setCr 2 0

/-- The registers of the group `dst` at width `w` after the element writes `es`, indices counting over the group (R201). A
register in which nothing is written is left out. -/
def Ctx.groupVals (c : Ctx) (dst : List Nat) (w : Nat) (es : List (Nat × Nat)) : List RegVal :=
  dst.zipIdx.filterMap fun (n, r) =>
    let mine := es.filterMap fun (i, x) => if i / c.cap w = r then some (i % c.cap w, x) else none
    if mine.isEmpty then none
    else some { reg := .v n, val := (writeElems c.lanes w (c.v.getD n 0) mine).toNat,
                marks := c.marksAfter n w (mine.map Prod.fst), hit := hitGranules c.lanes w (mine.map Prod.fst) }

/-- The physical slots of a group of `g` names (R201, R228). -/
def Ctx.groupSlots (c : Ctx) (r : Reg) (g : Nat) : List Nat := (List.range g).map fun n => c.vslot ((r.toNat + n) % 64)

/-- A mask register after bits are written; bits `n` up are zero under tz (R236). `es` is empty only where N = 0. -/
def Ctx.maskVal (c : Ctx) (md n : Nat) (tp : Bool) (es : List (Nat × Bool)) : RegVal :=
  let x := es.foldl (fun (x : BitVec 8192) e => setBits x e.1 1 (if e.2 then 1 else 0)) (c.m.getD md 0)
  let x := if tp then x else x &&& BitVec.ofNat 8192 (2 ^ n - 1)
  let p := es.foldl (fun (p : BitVec 4096) e => setBits p (e.1 / 2) 1 0) (c.pm.getD md 0)
  let p := if tp then p else p &&& BitVec.ofNat 4096 (2 ^ ((n + 1) / 2) - 1)
  let hit : BitVec 32 := es.foldl (fun h e => setBits h (e.1 / 512) 1 1) 0
  { reg := .m md, val := x.toNat, marks := p.setWidth 8192, hit := if tp then hit else BitVec.allOnes 32 }

/-! ### Element writes under mask and policies (R236) -/

/-- The elements that an instruction of R236 computes: active, at or above estart, below N. -/
def activeElems (start n : Nat) (mask : BitVec 8192) : List Nat :=
  (List.range n).filter fun i => start ≤ i && mask.getLsbD i

/-- The elements from `n` to the capacity zeroed under tz (R236). -/
def tailWrites (n cap : Nat) (tp : Bool) : List (Nat × Nat) :=
  if tp then [] else (List.range (cap - n)).map fun k => (n + k, 0)

/-- The element writes of R236 below N, and their flags. `op` answers none where the element stays as it is. -/
def bodyWrites (start n : Nat) (mask : BitVec 8192) (mp : Bool) (op : Nat → Option (Nat × Flags)) :
    List (Nat × Nat) × Flags :=
  (List.range n).foldr (fun i acc =>
    if i < start then acc
    else if mask.getLsbD i then
      match op i with
      | some (x, fl) => ((i, x) :: acc.1, fl ||| acc.2)
      | none => acc
    else if mp then ((i, 0) :: acc.1, acc.2) else acc) ([], 0)

/-! ### Sources -/

/-- Element `i` at width `w` of a group that was read (R201). -/
def groupGet (l w : Nat) (xs : List (BitVec 16384)) (i : Nat) : Nat :=
  let cap := l * 512 / w
  if cap = 0 then 0 else elemGet l w (xs.getD (i / cap) 0) (i % cap)

/-- A group of `g` registers read as operand `k` (R201). -/
def State.opGroup (s : State) (k : Nat) (r : Reg) (g : Nat) : List (BitVec 16384) :=
  (List.range g).map fun n => s.opVAt k r n

/-- The second operand of an instruction that R185 marks S (R237): an element, or the low bits of a scalar. -/
def State.second (s : State) (f : TR) (w : Nat) : Nat → Nat :=
  if f.s then
    let x := low (s.opS 0 f.rs2).toNat w
    fun _ => x
  else
    let y := s.opV 1 f.rs2
    fun i => elemGet s.cur.lanes w y i

/-- The scalar register that an instruction reads in place of its second vector (R237). -/
def secondScalars (f : TR) : List Reg := if f.s then [f.rs2] else []

/-- A place in the vector registers: slot, width and index. -/
abbrev VPlace := Nat × Nat × Nat

/-- Element `i` at width `w` of the group at `r` (R201). -/
def Ctx.place (c : Ctx) (r : Reg) (w i : Nat) : VPlace :=
  let cap := max 1 (c.cap w)
  (c.vslot ((r.toNat + i / cap) % 64), w, i % cap)

/-- The places of the second operand (R237). -/
def Ctx.secondPlaces (c : Ctx) (f : TR) (w i : Nat) : List VPlace := if f.s then [] else [c.place f.rs2 w i]

/-- An element at one of the places is poisoned (R363). -/
def Ctx.badPlaces (c : Ctx) (ps : List VPlace) : Bool := ps.any fun p => c.poisonedV p.1 p.2.1 p.2.2

/-- A bit of a mask register below `n` and at or above `start` is poisoned; m0 holds nothing (R174, R363). -/
def Ctx.badMask (c : Ctx) (m start n : Nat) : Bool :=
  m != 0 && (List.range n).any fun i => start ≤ i && (c.pm.getD m 0).getLsbD (i / 2)

/-! ### The shapes of element instructions -/

/-- What an element instruction does once its operands are known: N, the destination's first name, its width and group, the
elements that it reads, and its operation. It may stop at multiples of `unit` elements (R202, R239); 0 stands for one that runs to
completion before a switch. `whole` says that its own rule gives its whole effect at N = 0 too, with no zero-length retirement (R11,
R203). -/
structure VJob where
  n    : Nat
  w    : Nat
  g    : Nat := 1
  unit : Nat := 0
  whole : Bool := false
  uses : Nat → List VPlace
  op   : Nat → Option (Nat × Flags)

/-- The group's registers and the flags that an element instruction gives (R236). -/
def Ctx.elemResult (c : Ctx) (f : TR) (mask : BitVec 8192) (j : VJob) : List RegVal × Flags :=
  let (es, fl) := bodyWrites c.estart j.n mask f.mp j.op
  (c.groupVals (c.groupSlots f.rd j.g) j.w (es ++ tailWrites j.n (j.g * c.cap j.w) f.tp), fl)

/-- Where a pre-emption stops an instruction of `n` elements that may stop at multiples of `unit` (R152, R239): past what it has
done and before its end. -/
def Ctx.stopAt (c : Ctx) (unit n : Nat) : Option Nat :=
  c.cut.filter fun k => unit != 0 && k % unit == 0 && c.estart < k && k < n

/-- What is written before a stop leaves what the elements after it read (R236). -/
def Ctx.splitOk (c : Ctx) (writes reads : List VPlace) : Bool :=
  let pos (p : VPlace) : Nat := elemPos c.lanes p.2.1 p.2.2
  ((writes.map (·.1)).eraseDups).all fun n =>
    let hit := writes.foldl (fun (m : BitVec 16384) p => if p.1 = n then setBits m (pos p) p.2.1 (2 ^ p.2.1 - 1) else m) 0
    reads.all fun p => p.1 != n || bits hit (pos p) p.2.1 == 0

/-- Where an instruction of `n` elements at width `w` stops, each of which reads the places `uses`: not where an element written before
the stop would overwrite what one after it reads (R236, R239). -/
def Ctx.splitAt (c : Ctx) (unit n : Nat) (rd : Reg) (w : Nat) (uses : Nat → List VPlace) : Option Nat :=
  (c.stopAt unit n).filter fun k =>
    c.splitOk ((List.range k).map (c.place rd w)) ((List.range (n - k)).flatMap fun i => uses (k + i))

/-- The instruction stops before element `k` (R239): the elements below it are written and their flags are raised, and estart
records where it goes on. -/
def State.stopElems (s : State) (k : Nat) (vs : List RegVal) (fl : Flags) : Out :=
  .next ((s.produceMarked vs fl).mapCur fun c => { c.setCr 2 (BitVec.ofNat 64 k) with fate := .stopped })

/-- The part of an element instruction below element `k`: no tail is written. -/
def Ctx.elemPart (c : Ctx) (f : TR) (mask : BitVec 8192) (j : VJob) (k : Nat) : List RegVal × Flags :=
  let (es, fl) := bodyWrites c.estart k mask f.mp j.op
  (c.groupVals (c.groupSlots f.rd j.g) j.w es, fl)

/-- An element instruction with a vector destination (R236, R240): `half` says that a scalar operand is read in [31:0]
only, `scal` names the scalar operands, and `fin` is what the instruction does besides. -/
def vecElem (f : TR) (half : Bool) (scal : List Reg) (j : VJob) (fin : Ctx → Ctx) (s : State) : Out :=
  let c := s.cur
  if j.n = 0 ∧ !j.whole then s.retire
  else if s.badS half scal then s.poisonS
  else
    let mask := s.opM 0 f.vm.toNat
    if c.badMask f.vm.toNat c.estart j.n || (activeElems c.estart j.n mask).any (fun i => c.badPlaces (j.uses i)) then s.poisonV
    else match c.splitAt j.unit j.n f.rd j.w j.uses with
      | some k =>
        let (vs, fl) := c.elemPart f mask j k
        s.stopElems k vs fl
      | none =>
        let (vs, fl) := c.elemResult f mask j
        ((s.produceMarked vs fl).mapCur fin).retire

/-- The same for a variable-latency producer (R166, R168). -/
def vecElemVar (f : TR) (j : VJob) (s : State) : Out :=
  let c := s.cur
  if j.n = 0 then s.retire
  else
    let mask := s.opM 0 f.vm.toNat
    if c.badMask f.vm.toNat c.estart j.n || (activeElems c.estart j.n mask).any (fun i => c.badPlaces (j.uses i)) then s.poisonV
    else match c.splitAt j.unit j.n f.rd j.w j.uses with
      | some k =>
        let (vs, fl) := c.elemPart f mask j k
        s.stopElems k vs fl
      | none =>
        let (vs, fl) := c.elemResult f mask j
        ((s.produceVar vs fl none []).mapCur fun c => c.setCr 2 0).retire

/-- An element instruction with a mask destination (R236): `n` elements, and the comparison of each. -/
def vecToMask (f : TR) (n : Nat) (half : Bool) (uses : Nat → List VPlace) (op : Nat → Bool) (s : State) : Out :=
  let c := s.cur
  if n = 0 then s.retire
  else if s.badS half (secondScalars f) then s.poisonS
  else
    let mask := s.opM 0 f.vm.toNat
    if c.badMask f.vm.toNat c.estart n || (activeElems c.estart n mask).any (fun i => c.badPlaces (uses i)) then s.poisonV
    else
      let part (k : Nat) : List (Nat × Bool) :=
        (bodyWrites c.estart k mask f.mp fun i => some (if op i then 1 else 0, 0)).1.map fun e => (e.1, e.2 == 1)
      match c.stopAt 1 n with
      | some k => s.stopElems k [c.maskVal f.rd.toNat n true (part k)] 0
      | none => (s.produceMarked [c.maskVal f.rd.toNat n f.tp (part n)] 0).retire

end Sys2Proof.Machine
end

