-- ==== Sys2Proof/Machine/Bank.lean ====
section
/-! DEFINITION. The bank instructions at issue (17 R324-R332) and the events of the bank cores (R328-R333). -/

namespace Sys2Proof.Machine

/-! ### The command record (R325, R327) -/

/-- Word `k` of a record that is one number of 128 bytes. -/
def recWord (x k : Nat) : Word := BitVec.ofNat 64 (x / 2 ^ (64 * k))

/-- Two spans of bytes meet. -/
def spansMeet (a n b m : Nat) : Bool := a < b + m && b < a + n

/-- A record that meets R325, R322 and the field rules of R327 as a command, before its pages are known; none is misuse. -/
def bankParse (va : Word) (x : Nat) : Option BankCmd :=
  let w (k : Nat) : Word := recWord x k
  let ct := w 0
  let kind := bits ct 0 2
  let clen := bits ct 8 5
  let expr := toBytes clen (x / 2 ^ (8 * 0x30))
  let rest := x / 2 ^ (8 * (0x30 + clen)) % 2 ^ (8 * (24 - clen))
  match efTy (bits ct 4 4) with
  | none => none
  | some ty =>
    let eb := ty.bits / 8
    let al := if kind = 0 then eb else 32 * eb
    let a := (w 1).toNat
    let b := (w 2).toNat
    let c := (w 3).toNat
    let d := (w 4).toNat
    let n := (w 5).toNat
    let dl := bankSpan kind n ty.bits true
    let sl := bankSpan kind n ty.bits false
    let clash (q : Nat) : Bool := q != d && spansMeet q sl d dl
    let shape : Bool :=
      if kind = 0 then
        1 ≤ clen && clen ≤ 24 && postfixOk ty expr && (b != 0) == expr.contains 2 && (c != 0) == expr.contains 3
      else clen == 0 && b != 0 && c == 0 && (ty == .bf16 || ty == .f16 || ty == .i8)
    let dal := if kind = 0 then eb else 4
    if kind == 3 || bits ct 2 2 != 0 || bits ct 13 51 != 0 || n == 0 || 2 ^ 32 ≤ n || rest != 0 || !shape
        || bits (w 12) 0 64 != 0 || bits (w 13) 0 64 != 0 || w 14 != 0 || w 15 != 0
        || a % al != 0 || b % al != 0 || c % al != 0 || d % (max al dal) != 0 || clash a || (b != 0 && clash b) || (c != 0 && clash c) then none
    else
      let ks := (List.range 4).map fun k => BitVec.ofNat 32 (x / 2 ^ (8 * 0x48 + 32 * k))
      some { id := 0, slot := 0, part := 0, asid := 0, node := false, kind := kind, recVa := va, ef := bits ct 4 4, expr := expr, consts := ks,
             a := a, b := b, c := c, d := d, n := n, pages := [] }

/-- The channel of a stream's element. -/
def chanAt (pages : List (Nat × Leaf)) (va : Nat) : Nat := match leafAt pages va with
  | some l => sliceOf (l.pa va / 128)
  | none => 0

/-- The channel rule of a map, and the stack rule of a dot or reduce (R327). -/
def BankCmd.placed (c : BankCmd) : Bool :=
  if c.kind = 0 then
    (List.range c.n).all fun i =>
      let ch := chanAt c.pages (c.d + i * c.wb)
      (c.a :: [c.b, c.c].filter (· != 0)).all fun q => chanAt c.pages (q + i * c.wb) == ch
  else
    ((pagesOfRuns (c.reads ++ c.writes)).map fun q => match leafAt c.pages q.2 with
      | some l => stackOf (l.pa q.2)
      | none => 0).eraseDups.length == 1

/-- What a page of a bank command's streams may not be (R327): it is fast-tier, at any CA. -/
def Leaf.notFast (l : Leaf) : Option (Nat × Nat) := if region (65536 * l.frame) == .fast then none else some (2, 3)

/-- A command handed to the bank cores from its record's bytes (R327, R331): class, kind and address of its fault at source 5, or
`none` for a wait (R35), or the state in which it is accepted. BDONE is a write of the record's page (R21). -/
def State.bankStart (s : State) (p asid slot : Nat) (node : Bool) (va : Word) (x : Nat) : Except (Option Failed) State :=
  match ((List.range 4).map fun k => (recWord x (k + 1)).toNat).find? fun q => windowBase ≤ q && q < 2 ^ 55 with
  | some q => .error (some (1, 7, q))
  | none => match bankParse va x with
  | none => .error (some (5, 2, va.toNat))
  | some c =>
    match s.probePages p asid .read Leaf.notFast (pagesOfRuns c.reads) with
    | .error e => .error e
    | .ok rp => match s.probePages p asid .write Leaf.notFast (pagesOfRuns c.writes) with
      | .error e => .error e
      | .ok wp =>
        let c := { c with id := s.serial, slot := slot, part := p, asid := asid, node := node, pages := wp ++ rp }
        if !c.placed then .error (some (5, 2, va.toNat))
        else match s.probePages p asid .write Leaf.notFast [(va.toNat / 65536, va.toNat)] with
          | .error e => .error e
          | .ok own =>
            let c := { c with pages := wp ++ rp ++ own }
            let s := ((s.usePages p asid .read rp).usePages p asid .write wp).usePages p asid .write own
            let s := s.countDiscarded p (discardedRuns rp c.reads)
            let s := s.bankPut c (va.toNat + 0x58) 64 0
            .ok { s with serial := s.serial + 1, bank := s.bank ++ [{ c with owed := c.load }] }

/-- BCMD (R327). -/
def execBcmd (rs1 : Reg) (s : State) : Out :=
  if s.badS false [rs1] then s.poisonS
  else
    let c := s.cur
    let a := s.opS 0 rs1
    let misuse : Out := s.faultOpen 5 5 2
    if windowBase ≤ a.toNat ∧ a.toNat < 2 ^ 55 then s.fault 1 5 7 a
    else if a.toNat % 128 ≠ 0 then misuse
    else match s.reach c false a.toNat .read 128 with
      | .error e => s.noPlace 5 a.toNat e
      | .ok (.page l pa) =>
        if !(region pa == .fast && l.ca == 2) then misuse
        else
          let ps := [(a.toNat, 128, Loc.page l pa)]
          let t := s.useAll .read ps
          let ((x, bad), t) := t.readPieces c.cluster c.hart false ps
          match bad with
          | some p => s.fault 3 5 0 (BitVec.ofNat 64 p.1)
          | none => match t.bankStart c.part c.asid c.slot false a x with
            | .error none => s.hold
            | .error (some (5, _, _)) => misuse
            | .error (some (cl, k, e)) => s.fault cl 5 k (BitVec.ofNat 64 e)
            | .ok t => t.retire
      | .ok _ => misuse

/-! ### Gather and scatter-add (R332) -/

/-- The entries of a gather or scatter-add that are active: index and table address. -/
def State.bankEntries (s : State) (sb : Word) (rs2 : Reg) (mask : BitVec 8192) (ty : Ty) : List (Nat × Nat) :=
  let c := s.cur
  let vi := s.opV 1 rs2
  (activeElems 0 (min c.vl (16 * c.lanes)) mask).map fun j =>
    (j, (sb + BitVec.ofNat 64 (elemGet c.lanes 32 vi j * (ty.bits / 8))).toNat)

/-- What a page of an active entry may not be (R332): it is fast-tier and CA = 10. -/
def Leaf.notChannel (l : Leaf) : Option (Nat × Nat) :=
  if region (65536 * l.frame) == .fast && l.ca == 2 then none else some (2, 3)

/-- A gather or scatter-add as a command of the context in focus. -/
def State.entryCmd (s : State) (kind ef tag : Nat) (es : List (Nat × Nat)) (pages : List (Nat × Leaf)) : BankCmd :=
  { id := s.serial, slot := s.cur.slot, part := s.cur.part, asid := s.cur.asid, node := false, kind := kind, recVa := 0, ef := ef,
    expr := [], consts := [], a := 0, b := 0, c := 0, d := 0, n := es.length, tag := tag, entries := es, pages := pages }

/-- A command of entries accepted. -/
def State.addBank (s : State) (c : BankCmd) : State :=
  { s with serial := s.serial + 1, bank := s.bank ++ [{ c with owed := c.load }] }

/-- The checks that a gather and a scatter-add share; `k` goes on with the entries and their pages. -/
def entriesIssue (rs1 rs2 : Reg) (mk ef : BitVec 4) (acc : Acc) (more : Ty → List Nat → Bool)
    (k : Ty → Word → List (Nat × Nat) → List (Nat × Leaf) → Out) (s : State) : Out :=
  if s.badS false [rs1] then s.poisonS
  else
    let c := s.cur
    let ty := (efTy ef.toNat).getD .i32
    let sb := s.opS 0 rs1
    let mask := s.opM 2 mk.toNat
    let n := min c.vl (16 * c.lanes)
    let es := s.bankEntries sb rs2 mask ty
    if c.badMask mk.toNat 0 n || es.any (fun e => c.badPlaces [c.place rs2 32 e.1]) || more ty (es.map Prod.fst) then s.poisonV
    else match es.find? fun e => windowBase ≤ e.2 && e.2 < 2 ^ 55 with
      | some e => s.fault 1 5 7 (BitVec.ofNat 64 e.2)
      | none =>
        if sb.toNat % (ty.bits / 8) ≠ 0 then s.faultOpen 5 5 2
        else match s.probePages c.part c.asid acc Leaf.notChannel (es.map fun e => (e.2 / 65536, e.2)) with
          | .error none => s.hold
          | .error (some (cl, kd, a)) => s.fault cl 5 kd (BitVec.ofNat 64 a)
          | .ok pages => k ty sb es pages

/-- BGATH (R332): the gather goes to the bank cores behind the context's earlier commands (R125). With SA = 0 its data return before
the next word, which waits for them. A gather that meets poison takes its fault as its data return, and only one that meets none sets A then (R21, R76). -/
def execBgath (rd rs1 rs2 : Reg) (mk ef : BitVec 4) (s : State) : Out :=
  entriesIssue rs1 rs2 mk ef .read (fun _ _ => false) (fun ty sb es pages =>
    let c := s.cur
    let v := c.vslot rd.toNat
    let n := min c.vl (16 * c.lanes)
    let tail := tailWrites n (c.cap ty.bits) false
    let start := writeElems c.lanes ty.bits (c.v.getD v 0) tail
    let dst : RegVal := { reg := .v v, val := start.toNat, marks := c.marksAfter v ty.bits (es.map Prod.fst ++ tail.map Prod.fst)
                          hit := hitGranules c.lanes ty.bits (es.map Prod.fst ++ tail.map Prod.fst) }
    let b := s.entryCmd 3 ef.toNat c.ctl.sa.toNat (es.map fun e => (e.2, e.1)) pages
    let lines := ((es.filterMap fun e => match leafAt pages e.2 with
      | some l => if l.d then some (e.2 / 128) else none
      | none => none).eraseDups).length
    let t := ((s.countDiscarded c.part lines).pendVar [dst] sb).addBank b
    (if c.ctl.sa = 0 then (t.finishBank c.slot).showNow else t).retire) s

/-- BSCADD (R332). -/
def execBscadd (rd rs1 rs2 : Reg) (mk ef : BitVec 4) (s : State) : Out :=
  entriesIssue rs1 rs2 mk ef .write (fun ty on => on.any fun j => s.cur.badPlaces [s.cur.place rd ty.bits j])
    (fun ty _ es pages =>
      let c := s.cur
      let vs := s.opV 2 rd
      let t := s.usePages c.part c.asid .write pages
      let b := t.entryCmd 4 ef.toNat 0 (es.map fun e => (e.2, elemGet c.lanes ty.bits vs e.1)) pages
      (if es = [] then t else t.addBank b).retire) s

/-! ### Events of the bank cores -/

/-- A `bcmd` or bank node goes on (R328-R331). -/
def State.bankOnward (s : State) (c : BankCmd) : State :=
  match s.runBank c with
  | (.waits, t) => t
  | (.ended, t) => if c.node then t.retireNode c.slot 1 0 (BitVec.ofNat 64 c.n) 0 true else t
  | (.stopped e cnt, t) =>
    if c.node then t.retireNode c.slot 2 e (BitVec.ofNat 64 cnt) 0 true
    else t.post c.slot { code := e, tval := c.recVa, unit := 5 }

/-- A `bcmd` or bank node whose turn it is goes on to its end, or to its stop where `stop`, as the budgets of its channels let it
(R328-R331, R350). -/
def State.bankGo (s : State) (id : Nat) (stop : Bool) : State :=
  match s.bankCmd id with
  | none => s
  | some c =>
    if 2 < c.kind || !s.bankTurn c || ((s.bankMeet c (s.unread c c.units)).firstBad c).isSome != stop then s else s.bankOnward c

/-- BANK_COMMAND_COMPLETE (R328, R329): a command that meets no trap and no poison ends. -/
def execBankCommandComplete (id : Nat) (s : State) : Out := .next (s.bankGo id false)

/-- BANK_COMMAND_STOP (R330): a command that meets a trap or poison stops. -/
def execBankCommandStop (id : Nat) (s : State) : Out := .next (s.bankGo id true)

/-- The core that a block of a command, or an entry of a gather, is computed in. -/
def BankCmd.boxFrom (c : BankCmd) (block : Nat) : Nat :=
  if c.kind = 3 then (chanOf c.pages (c.entries.getD block (0, 0)).1).getD 0 else c.channel (32 * block)

/-- The core that its message goes to: that of the output of a dot or reduce (R329); for a gather, whose collecting core the
specification does not give, that of its first entry (log 87). -/
def BankCmd.boxTo (c : BankCmd) (block : Nat) : Nat :=
  (chanOf c.pages (if c.kind = 3 then (c.entries.getD 0 (0, 0)).1 else if c.kind = 1 then c.d + 4 * block else c.d)).getD 0

/-- A command sends a message about a block (R329, R333): a reduce always, a dot and a gather where the data cross to another
core of the same stack. -/
def BankCmd.messages (c : BankCmd) (block : Nat) : Bool :=
  (c.kind == 2 && block < ceilDiv c.n 32) || (c.kind == 1 && block < ceilDiv c.n 32 && c.boxFrom block != c.boxTo block)
    || (c.kind == 3 && block < c.entries.length && c.boxFrom block != c.boxTo block && c.boxFrom block / 32 == c.boxTo block / 32)

/-- The write of a dot's block that its core makes as it takes the message: the channel of D's line, where the line is charged. -/
def BankCmd.dotChannel (c : BankCmd) (block : Nat) : Option Nat :=
  if c.kind = 1 then chanOf c.pages (c.d + 4 * block) else none

/-- A command once the core has taken a message (R329): the partial of a reduce is folded, the element of a gather kept. The write of a
line of D is no longer owed where every block in it has been written one by one. -/
def BankCmd.taken (c : BankCmd) (m : MailBox) : BankCmd :=
  let seen := c.seen ++ [m.block]
  let left (va : Nat) : Bool := (List.range (ceilDiv c.n 32)).any fun j => (c.unitWrites (32 * j)).contains va && !seen.contains j
  { c with seen := seen
           acc := if c.kind = 2 then some (foldPartial c.ty c.acc (low m.data.toNat 32)) else c.acc
           got := if c.kind = 3 then c.got ++ [(m.block, m.data.toNat)] else c.got
           owed := if c.kind = 1 then c.owed.filter fun q => !(q.1 && (c.unitWrites (32 * m.block)).contains q.2 && !left q.2) else c.owed }

/-- The core takes a message (R329); the block of a dot is written in D, which the budget has been asked for (R350). -/
def State.arrived (s : State) (c : BankCmd) (m : MailBox) : State :=
  let s := match c.dotChannel m.block with
    | some ch => s.charge ch .bank 1
    | none => s
  let s := if c.kind = 1 then s.bankPut c (c.d + 4 * m.block) 32 (low m.data.toNat 32) else s
  { s.mapBank c.id fun b => b.taken m with mail := s.mail ++ [(c.id, m.block)] }

/-- The 64 bytes of a message about a block: its sum, or a gather's element; none where it is poisoned. -/
def State.boxData (s : State) (c : BankCmd) (block : Nat) : Option (BitVec 512) :=
  if c.kind = 3 then
    let (x, p) := s.bankGet c (c.entries.getD block (0, 0)).1 c.ty.bits
    if p then none else some (BitVec.ofNat 512 x)
  else match s.blockOf c block with
    | .ok x => some (BitVec.ofNat 512 x)
    | .error _ => none

/-- A command's message about a block is sent (R329, R333), once the budgets have granted the lines of the block (R350) and the core
that it is for has a free mailbox. -/
def State.sendBlock (s : State) (c : BankCmd) (block : Nat) : State :=
  if s.wakeOf (c.boxTo block) = BitVec.allOnes 8 then s
  else
    let unit := if c.kind = 3 then block else 32 * block
    let (go, t) := s.bankPay c fun q => !q.1 && (c.unitReads unit).contains q.2
    if !go then t
    else
      let t := t.bankMeet c (s.unread c [unit])
      match t.boxData c block with
      | none => t
      | some x => t.sendBox (c.boxTo block) (c.boxFrom block) c.id block x

/-- MAILBOX_MESSAGE (R329, R333): the message about a block is written into a mailbox of the core that it is for; or, where it is
there already, that core takes it, after those that its sender sent it before; a dot's once the budget lets it write D (R350). -/
def execMailboxMessage (id block : Nat) (s : State) : Out :=
  match s.bankCmd id with
  | none => .next s
  | some c =>
    match s.boxes.find? fun m => m.cmd == id && m.block == block with
    | some m =>
      if ((s.boxes.takeWhile (· != m)).any fun k => k.core == m.core && k.src == m.src)
          || (c.dotChannel block).any fun ch => !s.mayWork ch .bank then .next s
      else .next ((s.takeBox m).arrived c m)
    | none =>
      .next (if !c.messages block || c.seen.contains block || !s.bankTurn c then s else s.sendBlock c block)

/-- BGATH_DATA_RETURN (R332). -/
def execBgathDataReturn (id : Nat) (s : State) : Out :=
  match s.bankCmd id with
  | none => .next s
  | some c => if c.kind = 3 then .next (s.bankTry id) else .next s

/-- BSCADD_UPDATE (R332): the next update of a scatter-add. -/
def execBscaddUpdate (id : Nat) (s : State) : Out :=
  match s.bankCmd id with
  | none => .next s
  | some c => if c.kind = 4 then .next (s.bankTry id) else .next s

end Sys2Proof.Machine
end

