-- ==== Sys2Proof/Machine/Barriers.lean ====
section
/-! DEFINITION. Barriers and `wfe` (06 R148, R149). None of the four allocates a tag; they hold issue. -/

namespace Sys2Proof.Machine

/-! ### Groups (R148) -/

/-- The launch and scope of the group at a level of the context in focus; none is barrier misuse (R149). -/
def State.groupOf (s : State) (lvl : Nat) : Option (LaunchOf × Scope) :=
  match s.node s.cur.slot with
  | none => none
  | some n => match n.launch with
    | none => none
    | some l =>
      if l.doms.length ≤ lvl || !(1 ≤ l.doms.getD lvl 0 && l.doms.getD lvl 0 ≤ 3) then none
      else some (l, (Scope.ofCode (BitVec.ofNat 3 (l.scopes.getD lvl 0))).getD .s)

/-- Barrier misuse, 0x141 (R149). -/
def State.barrierMisuse (s : State) : Out := s.faultOpen 5 0 1

/-- The context in focus arrives (R149): its release performs first. -/
def State.arrive (s : State) (l : LaunchOf) (lvl : Nat) (sc : Scope) : State :=
  let (sc, s) := s.demote sc
  let s := s.release sc
  let b := s.barrier l lvl
  s.setBarrier (Barrier.settle { b with arrived := b.arrived ++ [s.cur.slot] })

/-- BAR.ARR. -/
def execBarArr (rd : Reg) (lvl : BitVec 3) (s : State) : Out :=
  match s.groupOf lvl.toNat with
  | none => s.barrierMisuse
  | some (l, sc) =>
    let b := s.barrier l lvl.toNat
    if b.arrived.contains s.cur.slot then s.barrierMisuse
    else ((s.arrive l lvl.toNat sc).produceFixed [(.s rd.toNat, b.phase.toNat)] 0).retire

/-- The end of a wait at a barrier: an acquire at the level's scope (R149). -/
def State.passBarrier (s : State) (sc : Scope) : Out :=
  let (sc, s) := s.demote sc
  (s.acquire sc).retire

/-- BAR.WAIT. DEDUCED: the word reads rs1[31:0], and consumes the poison of that half alone, as a scalar FP32 instruction does (R363,
log 91). -/
def execBarWait (rs1 : Reg) (lvl : BitVec 3) (s : State) : Out :=
  if s.badS true [rs1] then s.poisonS
  else match s.groupOf lvl.toNat with
    | none => s.barrierMisuse
    | some (l, sc) =>
      if (s.barrier l lvl.toNat).phase = (s.opS 0 rs1).setWidth 32 then s.hold else s.passBarrier sc

/-- The phase that a `bar.sync` waits at, where the context has arrived by this word (R149). -/
def Ctx.syncing (c : Ctx) (lvl : Nat) : Option (BitVec 32) :=
  match c.sync with
  | some (pc, l, ph) => if pc = c.pc ∧ l = lvl then some ph else none
  | none => none

/-- BAR.SYNC: `bar.arr` into a hidden register, then `bar.wait`. -/
def execBarSync (lvl : BitVec 3) (s : State) : Out :=
  match s.groupOf lvl.toNat with
  | none => s.barrierMisuse
  | some (l, sc) =>
    let wait (s : State) (ph : BitVec 32) : Out :=
      if (s.barrier l lvl.toNat).phase = ph then s.hold
      else (s.mapCur fun c => { c with sync := none }).passBarrier sc
    match s.cur.syncing lvl.toNat with
    | some ph => wait s ph
    | none =>
      let b := s.barrier l lvl.toNat
      if b.arrived.contains s.cur.slot then s.barrierMisuse
      else
        let s := s.arrive l lvl.toNat sc
        wait (s.mapCur fun c => { c with sync := some (c.pc, lvl.toNat, b.phase) }) b.phase

/-! ### wfe -/

/-- WFE: the monitor is armed on the line at its home, and the word holds until a wake. -/
def execWfe (rd rs1 : Reg) (s : State) : Out :=
  let wake (x : Nat) : Out :=
    ((s.mapCur fun c => { c with monitor := none, heard := none }).produceFixed [(.s rd.toNat, x)] 0).retire
  let c := s.cur
  if c.held && (c.monitor.isSome || c.heard.isSome) then
    match c.heard with
    | some .write => wake 1
    | some _ => wake 0
    | none => if s.wfeOver c then wake 0 else s.hold
  else if s.badS false [rs1] then s.poisonS
  else
    let a := (s.opS 0 rs1).toNat
    match s.locateAll false .read [(a, 1)] with
    | .error (_, e) => s.noPlace 0 a e
    | .ok ps => match ps with
      | [(_, _, .page l pa)] =>
        let s := s.useLeaf c.cluster c.part c.asid a .read l
        (s.mapCur fun c => { c with monitor := some (pa / 128), heard := none, waitAt := s.time }).hold
      | _ => s.fault 1 0 7 (BitVec.ofNat 64 a)

/-- WFE_WAKE: a monitor meets the end of its wait: a write that was applied, the time, or a resume. -/
def execWfeWake (slot : Nat) (why : WakeReason) (s : State) : Out :=
  match s.ctxOf slot with
  | none => .next s
  | some c =>
    if c.monitor.isSome && c.heard.isNone && why == .timeout && s.wfeOver c then
      .next (s.mapCtx slot fun c => { c with heard := some .timeout })
    else .next s

end Sys2Proof.Machine
end

