-- ==== Sys2Proof/Machine/Boundary.lean ====
section
/-! DEFINITION. Fetching a word (05 R122, 07 R159), the choice of what happens at a word boundary (20 R354), and which context
issues next. -/

namespace Sys2Proof.Machine

/-! ### Refills of evicted granules (R151, R153) -/

/-- A granule of a context refilled from its image, with the poison of its line (R363); `none` where the image cannot be read
(R352). -/
def State.refillGranule (s : State) (c : Ctx) (g : Nat) : Option Ctx :=
  (s.imageLine c.part c.asid c.image.toNat (g / 2)).map fun x =>
    (c.loadGranule g (x.1.extractLsb' (512 * (g % 2)) 512)).markGranule g x.2

/-- A granule of the grant may be read again from the image now, freely (R153). -/
def State.refills (s : State) (g : Nat) : Bool := 16 ≤ g && Config.choice s.nd (6000000 + g)

/-- One evicted granule of a context: one that was written since is in the register file again; any other may be read again now,
freely, and then holds what stands in the image (R153). The granules of CTLB are read at a resume alone (log 13). -/
def State.regrainOne (s : State) (c : Ctx) (e : Nat × BitVec 512) : Option Ctx :=
  if 16 ≤ e.1 ∧ c.imageGranule e.1 ≠ e.2 then some c
  else if s.refills e.1 then s.refillGranule c e.1
  else some { c with evicted := c.evicted ++ [e] }

/-- A context with some of its evicted granules refilled; `none` where its image cannot be read, which ends its node (R352). -/
def State.regrained (s : State) (c : Ctx) : Option Ctx :=
  c.evicted.foldl (fun (d : Option Ctx) e => d.bind fun d => s.regrainOne d e) (some { c with evicted := [] })

/-- The lines of a context's evicted granules that are read again. -/
def State.regrainRead (s : State) (c : Ctx) : State :=
  s.readImage c c.image.toNat ((c.evicted.filter fun e => c.away e.1 && s.refills e.1).map (·.1 / 2))

/-- The same for the context in focus. -/
def State.regrain (s : State) : Option State := (s.regrained s.cur).map fun c => { s.regrainRead s.cur with cur := c }

/-- A node whose image cannot be written back or read retires faulted with 0x175 (R352, R355), once its commands have ended (log 41). -/
def State.imageLost (s : State) (slot : Nat) : State :=
  if s.busy slot then s.finishBank slot
  else match s.ctxOf slot with
    | none => s.retireNode slot 2 0x175 0 0 true
    | some c => (s.imageMissed c).retireNode slot 2 0x175 (c.last.setWidth 64) 0 true

/-! ### Fetch -/

/-- Room for a line in the instruction cache of a cluster, which holds 256 KiB (R3). DESIGN CHOICE: of a full one the line that was filled
first leaves (log 95). -/
def icacheRoom (o : Nat) (l : List ILine) : List ILine :=
  let mine := l.filter fun c => c.owner == o
  match mine.getLast? with
  | some v => if 2048 ≤ mine.length then l.filter (· != v) else l
  | none => l

/-- A line of code as the cluster's instruction cache delivers it (R122): a cached copy, or, freely, a fresh fill from the
home. The second part is its poison. A fill from a discarded page reads zero and is counted (R36). -/
def State.fetchLine (s : State) (o p : Nat) (l : Leaf) (pa : Nat) : (LineVal × Bool) × State :=
  let n := pa / 128
  let fill (s : State) : (LineVal × Bool) × State :=
    let ((d, bad), s) :=
      if l.d then ((0, false), s.countDiscarded p 1)
      else match region pa with
        | .fast | .cap => s.homeRead o n l.key (l.ca == 2)
        | _ => ((BitVec.ofNat 1024 (freeBytes s.nd (128 * n) 128), s.cutOff p pa), s)
    let rest := s.icache.filter fun (c : ILine) => !(c.owner == o && c.line == n)
    if bad then ((d, true), s)
    else ((d, false), { s with icache := { owner := o, line := n, data := d } :: icacheRoom o rest })
  match s.icache.find? fun c => c.owner == o && c.line == n with
  | some c => if Config.choice s.nd (5000000 + n) then ((c.data, false), s) else fill s
  | none => fill s

/-- The pieces of a word translated for a fetch, or the first that faults: class, kind and ctl.tval (R31, R76). -/
def State.fetchLeaves (s : State) : List (Nat × Nat) → Except Failed (List (Nat × Nat × Leaf))
  | [] => .ok []
  | (a, n) :: r =>
    match s.reach s.cur false a .fetch n with
    | .error (.fault c k e) => .error (Failed.at_ a c k e)
    | .error .wait => .error (1, 3, a)
    | .ok (.page l _) => match s.fetchLeaves r with
      | .error e => .error e
      | .ok rest => .ok ((a, n, l) :: rest)
    | .ok _ => .error (1, 7, a)

/-- Translated pieces read in order: the bytes, or the address of the first poisoned line (R75). -/
def State.fetchBytes (s : State) : List (Nat × Nat × Leaf) → (Nat × Option Nat) × State
  | [] => ((0, none), s)
  | (a, n, l) :: r =>
    let s := s.useLeaf s.cur.cluster s.cur.part s.cur.asid a .fetch l
    let ((d, p), s) := s.fetchLine s.cur.cluster s.cur.part l (l.pa a)
    let ((y, q), s) := s.fetchBytes r
    ((lineGet d (a % 128) n + 2 ^ (8 * n) * y, if p then some (a / 128 * 128) else q), s)

/-- The address of the word at the program counter (R159). -/
def Ctx.wordAddr (c : Ctx) : Nat := (c.code + 10 * c.pc.setWidth 64).toNat

/-- The word at the program counter, or the cause and ctl.tval of its fetch (R30, R76). -/
def State.fetchWord (s : State) : Except (Nat × Word) (BitVec 80 × State) :=
  match s.fetchLeaves (pieces s.cur.wordAddr 10) with
  | .error (c, k, a) => .error (causeCode c 0 k, BitVec.ofNat 64 a)
  | .ok ps =>
    match s.fetchBytes ps with
    | ((_, some a), _) => .error (causeCode 3 0 0, BitVec.ofNat 64 a)
    | ((x, none), s) => .ok (BitVec.ofNat 80 x, s)

/-! ### The word that issues -/

/-- The instructions of a body that issue: both slots of a pair, or, where a producer runs again, that one alone (R169). -/
def Ctx.issuing (c : Ctx) : Body → List Instr
  | .full i => [i]
  | .pair a b => if c.rpt then [if c.pslot = 1 then b else a] else [a, b]

/-- The source of the first conflict of a word with its convoy (R171, R189). -/
def Ctx.conflict (c : Ctx) (w : IWord) (is : List Instr) : Option Nat :=
  let conv : Convoy := if w.ctl.cb || c.convoy.begins then {} else c.convoy
  (is.foldl (fun (acc : Option Nat × Convoy) i =>
    (acc.1.orElse fun _ => conflictOf acc.2 i, acc.2.add i)) (none, conv)).1

/-- The state in which a word reads its operands: its waits are over and its own control bits hold (R167, R168); `none` while one of
them is not over. A word that holds issue has passed them. -/
def State.operandView (s : State) (w : IWord) (is : List Instr) : Option State :=
  if s.cur.held then some s.tick else (s.prep w is).toOption

/-- The instructions of the next word of the context in focus, where it can be read, and the state in which they read their
operands. -/
def State.nextWord (s : State) : List Instr × Option State :=
  match s.fetchWord with
  | .error _ => ([], none)
  | .ok (raw, f) => match decode raw with
    | .ok w => (s.cur.issuing w.body, f.operandView w (s.cur.issuing w.body))
    | .illegal .. => ([], none)

/-- An append of a slot's context is stalled (R97). -/
def State.appendOf (s : State) (slot : Nat) : Bool :=
  s.streams.any fun h => h.stalled.any fun (q : Stall) => q.slot == slot && !q.node

/-- An append of the context in focus is stalled: its `happ` has issued, and until it commits or its fault is posted there is no word
boundary at which a cause or an event could be taken (R97). -/
def State.appending (s : State) : Bool := s.cur.held && s.appendOf s.cur.slot

/-- The switch waits until a stalled append has committed or its fault has been taken (R147, R364), and until a cause that the context
has met is served. -/
def State.switchWaits (s : State) (c : Ctx) : Bool := s.appendOf c.slot || c.due.isSome || c.posted.any fun p => p.unit == 6

/-- A switch-out of the context in focus has been decided, and nothing comes before it. -/
def State.leavesNow (s : State) : Bool := s.cur.leaving && !s.switchWaits s.cur

/-- The context in focus takes no cause and no event now: an append of it is stalled, a cause that it has met waits for its work, or a
switch-out comes first (R354). -/
def State.midWord (s : State) : Bool := s.appending || s.cur.due.isSome || s.leavesNow

/-- The first posted cause of the context in focus that is due before its next word. -/
def State.postedDue (s : State) : Option Posted :=
  if s.midWord then none else s.cur.posted.find? fun p =>
    (p.unit != 3 && p.unit != 4 && p.unit != 5) || s.nextWord.1.any (p.dueAt s.nextWord.2)

/-- What happens at a word boundary (R354): a cause or an event is taken instead of the word, or the word issues. -/
inductive Boundary where
  | taken (s : State)
  | issue (w : IWord) (s : State)
  deriving Repr

/-- The event that is due before the word of the context in focus (R354). -/
def State.eventNow (s : State) : Option Nat := if s.midWord then none else s.cur.eventDue

/-- The word boundary of the context in focus whose register file is there, in the order of R354 and R189. A word that holds issue
has passed its waits and its conflict check already. DESIGN CHOICE: ctl.epc names slot 0 for a convoy conflict (R173), whichever
operation of a pair raises it (log 91). -/
def State.wordBoundary (s : State) : Boundary :=
  let c := s.cur
  match s.postedDue, s.eventNow with
  | some p, _ => .taken (s.takePosted p)
  | none, some k => .taken (s.takeEvent k)
  | none, none =>
    match s.fetchWord with
    | .error (code, tval) => .taken ((s.metCause code tval).serve code tval 0)
    | .ok (raw, f) =>
      match decode raw with
      | .illegal src kind slot => .taken (f.serve (causeCode 0 src kind) f.openTval slot)
      | .ok w =>
        let is := c.issuing w.body
        if is.any supervisorOnly && !c.super then .taken (f.serve (causeCode 0 0 3) f.openTval 0)
        else if c.held then .issue w f.tick
        else match c.conflict w is with
          | some src => .taken (f.serve (causeCode 0 src 2) f.openTval 0)
          | none => match f.prep w is with
            | .error p => .taken (f.takeLate p)
            | .ok s => .issue w s

/-! ### Which context issues -/

/-- The number of a hart over the module. -/
def Ctx.hartNum (c : Ctx) : Nat := 8 * c.cluster + c.hart

/-- The running context of a hart brought into focus; the one in focus joins the others unless its hart is free. -/
def State.focus (s : State) (h : Nat) : State :=
  match s.others.find? fun c => c.status == .running && c.hartNum == h with
  | none => s
  | some c =>
    let rest := s.others.filter fun d => !(d.status == .running && d.hartNum == h)
    { s with cur := c, others := if s.cur.status == .idle then rest else rest ++ [s.cur] }

/-- The first running context that is not in focus. -/
def State.nextRunning (s : State) : Option Nat := (s.others.find? fun c => c.status == .running).map Ctx.hartNum

/-- A pair's word after both slots have retired (R163). -/
def Ctx.endPair (c : Ctx) : Ctx :=
  { c with views := none, pslot := 0, last := c.pc, pc := c.pc + 1, held := false, fate := .retired }

/-- What the module does on its own, and what is done to it from outside: no word holds it. -/
def isEvent : Instr → Bool
  | .dispatchNode .. | .clusterDrain .. | .contextSwitchOut .. | .contextResume .. | .registerGranuleEvict ..
  | .producerComplete .. | .postedCauseTaken .. | .asyncEventTaken .. | .timerEvent .. | .signalEvent ..
  | .watchdogHalfLimit .. | .watchdogExpiry .. | .timeBasePeriod .. | .resourceGrant .. | .wfeWake ..
  | .lineWriteBack .. | .dirtyWriteBackSweep .. | .lineStaleTimeout .. | .watermarkBeacon .. | .homeApplyWrite ..
  | .lineFillReturn .. | .stalledWriteResume .. | .rowActivateHint .. | .chainHeaderRead .. | .chainPrefetch ..
  | .stagerPromotion .. | .stagerDemotion .. | .stagingWaitExpiry .. | .patrolScrubLine .. | .frameScrub ..
  | .frameOwnerTableWrite .. | .keySlotRekey .. | .kneaderMerge .. | .kneaderExpire .. | .stalledAppendCommit ..
  | .historyNodeAppend .. | .engineCommandComplete .. | .rallySortDone .. | .rallyPark .. | .rallyResume ..
  | .matrixEntryComplete .. | .tileFetchLineRead .. | .bankCommandComplete .. | .bankCommandStop ..
  | .mailboxMessage .. | .bgathDataReturn .. | .bscaddUpdate .. | .launch .. | .submissionRingEntry .. | .intpost ..
  | .l2scr .. | .l2WayConversionDone .. | .psched .. | .ppol .. | .partitionResourceWrite .. | .stgstat ..
  | .registerWrite .. | .warm .. | .faultTriggeredWarmReset .. | .coldStart .. | .warmStartComplete ..
  | .firmwareUpdate .. | .linkFlitReceive .. | .linkReplay .. | .laneRepair .. | .retrain .. | .portDown ..
  | .remoteAccess .. | .rootPortWrite .. | .powerManagerInterval .. | .sensorSample .. | .spdmRequest ..
  | .applicationCoreAccess .. | .rootPortRead .. | .stgctl .. => true
  | _ => false

end Sys2Proof.Machine
end

