-- ==== Sys2Proof/Machine/Switch.lean ====
section
/-! DEFINITION. Contexts that leave and return: switch-out and resume (05 R121; 06 R151-R154; 20 R364), the events that are
posted to contexts (20 R359), and the cluster's shared resources (19 R344). -/

namespace Sys2Proof.Machine

/-! ### Switch-out (R152, R364) -/

/-- A context as it stands off its hart: it meets a posted cause of the matrix path before its first word, a `wfe` completes at the
resume, with rd = 0 where no write has been heard, any other word that waited runs again, and its pins are dropped (R147, R149,
R291). -/
def Ctx.off (c : Ctx) : Ctx :=
  let wfe := c.monitor.isSome || c.heard.isSome
  { c.unpin with
    status := .out, leaving := false, held := wfe && c.held, views := none, pslot := if c.rpt then c.pslot else 0, monitor := none
    heard := if !wfe then none else if c.heard = some .write then c.heard else some .resume
    posted := c.posted.map fun (p : Posted) => if p.unit = 3 then { p with unit := 0 } else p
    image := c.cr 17 }

/-- The context of a slot leaves its hart (R152): its gathers have returned, its work in flight settles, its hart releases at .c, and
its lanes are free (R143). -/
def State.switchOut (s : State) (slot : Nat) : State :=
  match s.ctxOf slot with
  | none => s
  | some c =>
    if c.status != .running || s.switchWaits c then s
    else
      let s := s.finishBank slot
      if s.gathering slot then s
      else
        let s := (s.dropAsks slot).settleWork slot
        let s := s.releaseCaches c.cluster c.hart .c
        let s := if s.cur.status == .running && s.cur.slot == slot then
            { s with others := s.others ++ [s.cur.off], cur := idleCtx s.cur }
          else s.mapCtx slot Ctx.off
        (s.mapNode slot fun n => { n with stat := .out, outAt := s.time }).retarget c.cluster

/-- The context of a slot is pre-empted; where its switch has to wait, it is made as soon as it can be. -/
def State.preempt (s : State) (slot : Nat) : State :=
  (s.switchOut slot).mapCtx slot fun c => if c.status = .running then { c with leaving := true } else c

/-- The word boundary of the context in focus (R354). A `happ` whose append is stalled goes on waiting: its word is not fetched
again (R97). A cause that waits for the context's work comes before any word, and so does a switch-out that has been decided. -/
def State.boundary (s : State) : Boundary :=
  if s.appending then .taken (s.mapCur fun c => { c with fate := .held })
  else match s.cur.due with
    | some d => .taken (s.serveDue d)
    | none =>
      if s.leavesNow then .taken (s.switchOut s.cur.slot)
      else match s.regrain with
        | some s => s.wordBoundary
        | none => .taken (s.imageLost s.cur.slot)

/-- CONTEXT_SWITCH_OUT. -/
def execContextSwitchOut (slot : Nat) (s : State) : Out := .next (s.switchOut slot)

/-! ### Resume (R121, R154) -/

/-- PPOL.EN (R384). -/
def State.enabled (s : State) (p : Nat) : Bool := (s.partReg p).ppol.getLsbD 31

/-- A hart that runs no context. -/
def State.hartFree (s : State) (o h : Nat) : Bool := h < 8 && (s.resident o).all fun c => c.hart != h

/-- A context off its hart can resume on a hart of a cluster with its present grant (R52, R145, R146, R154, R343); one whose granules
must be written back first waits for a page of its image that is being moved (R35, R151). -/
def State.canResume (s : State) (c : Ctx) (n : Node) (o h : Nat) : Bool :=
  c.status == .out && s.enabled c.part && s.ownsCluster c.part o && s.hartFree o h && n.mayUse o
    && (s.ownedTiles c.slot).all (fun t => t.cluster == o) && !s.keptOut c o && (c.cluster == o || !s.imageWaits c)
    && s.gangFits o c.slot && (c.share == 0 || (c.share ≤ s.freeLanes o && !s.gangOn o c.slot && !s.wholeOn o
        && !s.reservedFor o c.slot && (c.lreq ≤ 8 || s.freeLanes o == 32)))

/-- The least virtual time of each resource among the resident contexts of a cluster (R344). -/
def State.leastTimes (s : State) (o : Nat) : Vector Nat 5 :=
  Vector.ofFn fun k => (((s.resident o).map fun c => c.vtime.getD k 0).min?).getD 0

/-- ctl.hart (R360). -/
def hartWord (p o h : Nat) : Word := BitVec.ofNat 64 (h + 8 * (o % 32) + 256 * (o / 32) + 4096 * p)

/-- What a context takes with a hart, at dispatch and at a resume: ctl.hart, the scope cap (R130, R384), its virtual times
(R344), a convoy that begins (R170). -/
def State.seat (s : State) (c : Ctx) (o h : Nat) : Ctx :=
  let c := { c with
    status := .running, cluster := o, hart := h, vtime := s.leastTimes o, convoy := {}
    q := c.q.map fun (q : QReg) => { q with links := [] } }
  (c.setCr 19 (hartWord c.part o h)).setCr 21 (setBits (c.cr 21) 0 3 (bits (s.partReg c.part).ppol 0 3))

/-- A context put on its hart: in focus where nothing is, or among the others. -/
def State.putCtx (s : State) (c : Ctx) : State :=
  if s.cur.status == .idle then { s with cur := c } else { s with others := s.others ++ [c] }

/-- A line of a fetch pinned again under the translation that a resume finds (R291). A line that no page of the fast tier holds any
more is poisoned for the entry that needs it (log 75). -/
def State.repinLine (s : State) (o : Nat) (c : Ctx) (p : Pinned) : Pinned × State :=
  match s.locate o c.part c.asid c.slot false (128 * p.va) .read with
  | .ok (.page l pa) =>
    if region pa == .fast && l.ca != 2 then
      ({ p with line := pa / 128, key := l.key, ca := l.ca, zero := l.d, copy := none }, s.useLeaf o c.part c.asid (128 * p.va) .read l)
    else ({ p with copy := some (0, true) }, s)
  | _ => ({ p with copy := some (0, true) }, s)

/-- A fetch pinned again. -/
def State.repinFetch (s : State) (o : Nat) (c : Ctx) (f : Fetch) : Fetch × State :=
  let (ls, s) := f.lines.foldl (fun (acc : List Pinned × State) p =>
    let (q, s) := acc.2.repinLine o c p
    (acc.1 ++ [q], s)) ([], s)
  ({ f with lines := ls }, s)

/-- Every fetch of a context that resumes on cluster `o` pinned again (R291). -/
def State.repin (s : State) (o : Nat) (c : Ctx) : Ctx × State :=
  let (mq, s) := c.mq.foldl (fun (acc : List MEntry × State) e => match e.fetch with
    | none => (acc.1 ++ [e], acc.2)
    | some f =>
      let (g, s) := acc.2.repinFetch o c f
      (acc.1 ++ [{ e with fetch := some g }], s)) ([], s)
  let (fs, s) := c.fetches.foldl (fun (acc : List Fetch × State) f =>
    let (g, s) := acc.2.repinFetch o c f
    (acc.1 ++ [g], s)) ([], s)
  ({ c with mq := mq, fetches := fs }, s)

/-- The evicted granules of CTLB that stand in the image alone. -/
def Ctx.ctlbGone (c : Ctx) : List (Nat × BitVec 512) := c.evicted.filter fun e => e.1 < 16 && c.away e.1

/-- A context whose evicted granules of CTLB are read again at its resume: none may be poisoned (0x0F5) or out of reach (0x175,
R352). Each gives what the image holds, or, freely, what the context wrote back (R153); the grant stays, whatever the context has claimed
since (R154). One with a reserved bit set ends the node as R368 has it (log 73). -/
def State.ctlbBack (s : State) (c : Ctx) : ImageRead :=
  let read := c.ctlbGone.map fun e => (e.1, s.imageLine c.part c.asid c.image.toNat (e.1 / 2))
  if read.any fun e => e.2.isNone then .fault 0x175
  else if read.any fun e => e.2.any (·.2) then .fault 0x0F5
  else
    let new := read.filter fun e => Config.choice s.nd (6000000 + e.1)
    let w (i : Nat) : Word := match if i = 33 then none else new.find? fun e => e.1 == i / 8 with
      | some (_, some (d, _)) => d.extractLsb' (64 * (i % 16)) 64
      | _ => c.ctlbWord i
    if new.isEmpty then .ok c
    else if ctlbBits w then .fault 0x174
    else .ok (({ c with posted := keepFirst c.posted }.withCtlb w).withPending w c.pendingWide c.pendingMarks s.serial)

/-- A context that moves to another cluster (R121, R151): its granules are written back, released at .v, and read again from its image;
`none` where the image cannot be reached. -/
def State.migrate (s : State) (c : Ctx) : Option (Ctx × State) :=
  (s.regrained c).bind fun d => ((s.regrainRead c).park d).map fun s =>
    ({ d with evicted := (List.range (imageGranules d.lanes)).map fun g => (g, d.imageGranule g) }, s)

/-- The context and the state with which a resume on another cluster, or on the same one, goes on. -/
def State.moved (s : State) (c : Ctx) (o h : Nat) : Option (Ctx × State) :=
  if c.cluster = o then some (c, s.acquireCaches o h .c)
  else (s.migrate c).map fun r => (r.1, (r.2.releaseCaches c.cluster c.hart .v).acquireCaches o h .v)

/-- A context off its hart that cannot go on retires faulted, its granules parked (R155), once its commands have ended (log 41). -/
def State.endFaulted (s : State) (c : Ctx) (code : Nat) : State :=
  match s.park c with
  | none => s.imageLost c.slot
  | some t => if s.busy c.slot then s.finishBank c.slot else t.retireNode c.slot 2 code (c.last.setWidth 64) (c.cr 17) true

/-- CONTEXT_RESUME: the new hart acquires at .c, or, on another cluster, the old one releases at .v first and the new one
acquires at .v (R121). The flips back that waited for the resume come first (R364). -/
def execContextResume (slot cluster hart : Nat) (s : State) : Out :=
  match s.ctxOf slot, s.node slot with
  | some c, some n =>
    if !s.canResume c n cluster hart then .next s
    else
      let back := s.ctlbBack c
      let s := if c.ctlbGone.isEmpty then s else (s.readImage c c.image.toNat (c.ctlbGone.map (·.1 / 2))).pastQueue
      match back with
      | .fault code => .next (if code = 0x175 then s.imageLost slot else s.endFaulted c code)
      | .ok d =>
        let s := (if d = c then s else s.mapCtx slot fun _ => d).flipEnded slot
        match s.moved ((s.ctxOf slot).getD c) cluster hart with
        | none => .next (s.imageLost slot)
        | some (d, s) =>
          let (d, s) := s.repin cluster (s.seat { d with evicted := d.evicted.filter fun e => 16 ≤ e.1 } cluster hart)
          let s := { s with others := s.others.filter (fun x => !(x.slot == slot && x.status == CtxStatus.out))
                            drains := s.drains.filter fun e => !(e.2.1 == slot || s.gangMates slot e.2.1) }
          let s := (s.putCtx d).mapNode slot fun n => { n with stat := .running, cluster := cluster, half := false }
          .next (s.retarget cluster)
  | _, _ => .next s

/-! ### The register-file cache (R151, R153, R363) -/

/-- A granule of a context written to its image at home, as poison where a position of it is marked (R363); not while its page is being
moved (R35). -/
def State.evictGranule (s : State) (c : Ctx) (g : Nat) : State :=
  let va := c.image.toNat + 64 * g
  match s.imageLeaf c.part c.asid va .write with
  | none => s.imageLost c.slot
  | some l =>
    if l.m then s else
    let s := s.useLeaf c.cluster c.part c.asid va .write l
    let d : LineVal := (c.imageGranule g).setWidth 1024 <<< (512 * (g % 2))
    let s := s.homeApply (l.pa va / 128) l.key false d (byteSpan (64 * (g % 2)) 64) (c.granulePoison g)
    s.mapCtx c.slot fun c => { c with evicted := c.evicted.filter (·.1 != g) ++ [(g, c.imageGranule g)] }

/-- REGISTER_GRANULE_EVICT. -/
def execRegisterGranuleEvict (slot granule : Nat) (s : State) : Out :=
  match s.ctxOf slot with
  | none => .next s
  | some c =>
    if (c.status == .running || c.status == .out) && granule < imageGranules c.lanes then .next (s.evictGranule c granule)
    else .next s

/-! ### Producers, causes and events -/

/-- PRODUCER_COMPLETE (R168): a tagged producer's data return; the result stays pending. -/
def execProducerComplete (slot tag : Nat) (s : State) : Out := .next (s.completeTag slot tag)

/-- POSTED_CAUSE_TAKEN (R354): the posted cause that is due before the next word of the context in focus. -/
def execPostedCauseTaken (s : State) : Out :=
  if s.cur.status != .running then .next s
  else match s.postedDue with
    | some p => .next (s.takePosted p)
    | none => .next s

/-- ASYNC_EVENT_TAKEN (R354, R359): the event that is due, where no posted cause comes before it. -/
def execAsyncEventTaken (s : State) : Out :=
  if s.cur.status != .running || s.postedDue.isSome then .next s
  else match s.eventNow with
    | some k => .next (s.takeEvent k)
    | none => .next s

/-- An event of a kind is pending (R359): in ctl.tpend, or, while the image of a parked context holds ctl.tpend, beside it until the
image is read again (log 74). -/
def Ctx.pendEvent (c : Ctx) (k : Nat) : Ctx :=
  if c.status = .parked then { c with news := setBits c.news k 1 1 } else c.setCr 28 (setBits (c.cr 28) k 1 1)

/-- A context that is dispatched and not parked. -/
def Ctx.live (c : Ctx) : Bool := c.status == .running || c.status == .out

/-- TIMER_EVENT: once for each write of ctl.tcmp. -/
def execTimerEvent (slot : Nat) (s : State) : Out :=
  match s.ctxOf slot with
  | none => .next s
  | some c =>
    if c.timer && c.cr 27 != 0 && (c.cr 27).toNat ≤ s.time then
      .next (s.mapCtx slot fun c => { c with timer := false }.pendEvent 0)
    else .next s

/-- SIGNAL_EVENT. -/
def execSignalEvent (slot : Nat) (s : State) : Out :=
  match s.ctxOf slot with
  | none => .next s
  | some _ => .next (s.mapCtx slot fun c => c.pendEvent 1)

/-! ### Shared resources (R344) -/

/-- RESOURCE_GRANT: the next slot of a cluster's shared resource goes to the request whose turn it is: an entry of the matrix queue
(R285), a sort (R317), a channel of the copy engine (R308), a line of the tile fetch unit (R291). No request waits at the ports
of the cluster cache: a word makes its accesses in its step, and pays for its slot as it issues (log 78). -/
def execResourceGrant (cluster : Nat) (res : Resource) (s : State) : Out :=
  .next <| match res with
    | .cachePort => s
    | .matrixQueue => s.grantEntry cluster
    | .rally => s.grantSort cluster
    | .copyChannel => s.grantCopy cluster
    | .tileFetch => s.fetchTurn cluster

end Sys2Proof.Machine
end

