-- ==== Sys2Proof/Machine/Stream.lean ====
section
/-! DEFINITION. Stream registers (12 R254-R256), their places in memory with chain mode (01 R32), and the stream
instructions (R255). -/

namespace Sys2Proof.Machine

/-! ### Fields (R254) -/

/-- QCOUNT as a number. -/
def QReg.left (q : QReg) : Nat := q.count.toNat % 2 ^ 48
/-- CHAIN. -/
def QReg.chain (q : QReg) : Bool := q.cfg.getLsbD 12
/-- QBIT. -/
def QReg.bit (q : QReg) : Nat := bits q.cfg 6 3
/-- SCOPE. -/
def QReg.scope (q : QReg) : Scope := (Scope.ofCode (BitVec.ofNat 3 (bits q.cfg 13 3))).getD .h

/-- A stream register of a context written; a write ends a last-use mark (R172). -/
def Ctx.setQ (c : Ctx) (n : Nat) (q : QReg) : Ctx :=
  let d : Ctx := { c with q := c.q.setIfInBounds n q, lastUse := c.lastUse.filter (· != .q n), lastNew := c.lastNew.filter (· != .q n) }
  d.rewrote fun g => g == 288 + 2 * n

/-- The size of an element in bytes (R254); 1 for packed elements. -/
def EWidth.bytes (z : EWidth) : Nat := max 1 (EWidth.bits z / 8)

/-- The bytes that an element touches which begins at bit `t` of its first byte: a packed one may reach into a second (R256). -/
def EWidth.span (z : EWidth) (t : Nat) : Nat := (t + EWidth.bits z + 7) / 8

/-! ### Places without a chain (R256) -/

/-- The byte and bit of element `k`. -/
def QReg.place (q : QReg) (w k : Nat) : Nat × Nat :=
  if w < 8 then
    let b := q.bit + k * w
    ((q.base + BitVec.ofNat 64 (b / 8)).toNat, b % 8)
  else ((q.base + BitVec.ofNat 64 k * q.stride).toNat, 0)

/-- The register moved past `n` elements of the width (R256). -/
def QReg.advance (q : QReg) (z : EWidth) (n : Nat) : QReg :=
  let (b, t) := q.place (EWidth.bits z) n
  { q with base := BitVec.ofNat 64 b, count := BitVec.ofNat 64 (q.left - n)
           cfg := setBits (setBits q.cfg 6 3 t) 0 3 (EWidth.code z).toNat }

/-! ### Chain mode (R32, R256) -/

/-- The step of a chained stream (R256). -/
def QReg.step (q : QReg) (z : EWidth) : Nat :=
  if 1 ≤ q.stride.toNat ∧ q.stride.toNat ≤ 65408 then q.stride.toNat else EWidth.bytes z

/-- Why an element has no place: class, kind and address. -/
abbrev NoElem := Nat × Nat × Nat

/-- The successor that a page's header names, held or read afresh at the stream's scope (R129) with acquire order (R32). A page
without a successor is a chain end. A header that the engine reads `ahead` of the program sets no A, and none is read on a page with
NS = 1 (R24, R70). -/
def State.successor (s : State) (ahead : Bool) (q : QReg) (page : Nat) : Except NoElem (Nat × QReg × State) :=
  match q.links.find? (fun l => l.1 == page) with
  | some l => .ok (l.2, q, s)
  | none =>
    let a := page * 65536
    match s.locateAll false .read [(a, 8)] with
    | .error (_, .fault c k e) => .error (c, k, e.getD a)
    | .error (_, .wait) => .error (1, 3, a)
    | .ok ps =>
      if ahead && ps.any (fun p => match p.2.2 with
          | .page l _ => l.ns
          | _ => false) then .error (2, 0, a) else
      let (sc, t) := s.demote q.scope
      let t := (if ahead then t.walked [a] else t.useAll .read ps).freshenAll sc ps
      let ((x, bad), t) := t.readPieces t.cur.cluster t.cur.hart true ps
      match bad with
      | some p => .error (3, 1, p.1)
      | none =>
        if x % 2 = 0 then .error (1, 6, a)
        else
          let next := x / 65536 % 2 ^ 39
          let t := if ahead then t else t.countDiscarded t.cur.part (discardedLines ps)
          .ok (next, { q with links := (page, next) :: q.links }, t.acquire sc)

/-- The place of an element whose position is `pos` (R256): where it would not end in its page, offset 128 of the successor
page. A position below offset 128 stands for the end of the page before it. -/
def State.chainPlace (s : State) (q : QReg) (e pos : Nat) : Except NoElem (Nat × QReg × State) :=
  if 128 ≤ pos % 65536 ∧ pos % 65536 + e ≤ 65536 then .ok (pos, q, s)
  else
    let page := if pos % 65536 < 128 then pos / 65536 - 1 else pos / 65536
    match s.successor false q page with
    | .error x => .error x
    | .ok (n, q, s) => .ok (n * 65536 + 128, q, s)

/-- The position after an element that was placed at `a`. -/
def chainNext (a step : Nat) : Nat := if a % 65536 + step < 65536 then a + step else (a / 65536 + 1) * 65536

/-- The places of the next `n` elements from a position, as far as they have one. -/
def State.chainWalk (s : State) (q : QReg) (e step : Nat) :
    Nat → Nat → (List Nat × Option NoElem) × (Nat × QReg × State)
  | 0, pos => (([], none), (pos, q, s))
  | n + 1, pos =>
    match s.chainPlace q e pos with
    | .error x => (([], some x), (pos, q, s))
    | .ok (a, q, s) =>
      let ((l, x), r) := s.chainWalk q e step n (chainNext a step)
      ((a :: l, x), r)

/-- A chained register moved past `n` elements; it never faults, and a position that needs a successor which is not there
stays at the end of its page (log 17). -/
def State.chainAdvance (s : State) (q : QReg) (z : EWidth) (n : Nat) : QReg × State :=
  let e := EWidth.span z (if EWidth.bits z < 8 then q.bit else 0)
  let (_, (pos, q, s)) := s.chainWalk q e (q.step z) n q.base.toNat
  let (pos, q, s) := match s.chainPlace q e pos with
    | .ok r => r
    | .error _ => (pos, q, s)
  ({ q with base := BitVec.ofNat 64 pos, count := BitVec.ofNat 64 (q.left - n)
            cfg := setBits q.cfg 0 3 (EWidth.code z).toNat }, s)

/-! ### Translations held by a stream register (R32) -/

/-- The pages of a chain that the links held lead to, in order, up to `k` of them. -/
def QReg.ahead (q : QReg) : Nat → Nat → List Nat
  | 0, _ => []
  | k + 1, page => match q.links.find? (fun l => l.1 == page) with
    | none => []
    | some l => l.2 :: q.ahead k l.2

/-- The pages that the next `r` elements from `a` at a stride touch first, up to `k` of them. -/
def pagesFrom (st : Int) : Nat → Nat → Int → List Nat
  | 0, _, _ => []
  | k + 1, r, a =>
    let off := (a % 65536).toNat
    let n := if st = 0 then r else if 0 < st then ceilDiv (65536 - off) st.natAbs else off / st.natAbs + 1
    if r = 0 then [] else (a % (2 ^ 64 : Nat)).toNat / 65536 :: pagesFrom st k (r - n) (a + n * st)

/-- The page that a stream's next element lies in, and up to four further pages that its remaining elements will touch. -/
def QReg.nextPages (q : QReg) : List Nat :=
  let page := q.base.toNat / 65536
  if q.left = 0 then []
  else if q.chain then page :: q.ahead 4 page
  else
    let w := 2 ^ bits q.cfg 0 3 * 2
    if w < 8 then pagesFrom 1 5 (ceilDiv (q.bit + q.left * w) 8) q.base.toNat else pagesFrom q.stride.toInt 5 q.left q.base.toNat

/-- Which stream register of a context holds a translation. -/
def Ctx.streamId (c : Ctx) (n : Nat) : Nat := 16 * c.slot + n

/-- The translations that stream register `n` of a context holds are dropped, but for those of some pages. -/
def State.dropStream (s : State) (n : Nat) (keep : List Nat) : State :=
  { s with tlb := s.tlb.filter fun t => t.stream != some (s.cur.streamId n) || keep.contains t.page }

/-- The stream engine fills the translations of stream register `n` ahead of the loop (R32). -/
def State.fillStream (s : State) (n : Nat) : State :=
  let pages := (s.cur.q.getD n {}).nextPages
  pages.foldl (fun (s : State) p => s.foresee s.cur.cluster s.cur.part s.cur.asid (s.cur.streamId n) p) (s.dropStream n pages)

/-! ### The stream instructions (R255) -/

/-- QSET. -/
def execQset (qd rs1 rs2 : Reg) (esz : EWidth) (chain : Bool) (sc : Scope) (s : State) : Out :=
  if s.badS false [rs1, rs2] then s.poisonS
  else
    let base := s.opS 0 rs1
    let base := if chain && bits base 0 16 < 128 then setBits base 0 16 128 else base
    let stride := match esz with
      | .x2 | .x4 => 0
      | _ => EWidth.bits esz / 8
    let q : QReg :=
      { base := base, stride := BitVec.ofNat 64 stride, count := BitVec.ofNat 64 (low (s.opS 1 rs2).toNat 48)
        cfg := BitVec.ofNat 64 ((EWidth.code esz).toNat + (if chain then 4096 else 0) + 8192 * (Scope.code sc).toNat) }
    ((s.dropStream qd.toNat []).mapCur fun c =>
      { c.setQ qd.toNat q with pend := c.pend.map fun (p : Pending) => if p.stream = some qd.toNat then { p with reset := true } else p }).retire

/-- QSTR. -/
def execQstr (qd rs1 : Reg) (s : State) : Out :=
  if s.badS false [rs1] then s.poisonS
  else
    let x := s.opS 0 rs1
    (s.mapCur fun c => c.setQ qd.toNat { c.q.getD qd.toNat {} with stride := x }).retire

/-- QLEN. -/
def execQlen (rd qs : Reg) (s : State) : Out := (s.produceFixed [(.s rd.toNat, (s.opQ 0 qs).left)] 0).retire

/-- QINFO. -/
def execQinfo (rd qs : Reg) (sel : BitVec 2) (s : State) : Out :=
  let q := s.opQ 0 qs
  let x := match sel.toNat with
    | 0 => q.base.toNat
    | 1 => q.stride.toNat
    | 2 => q.left
    | _ => q.cfg.toNat
  (s.produceFixed [(.s rd.toNat, x)] 0).retire

end Sys2Proof.Machine
end

