-- ==== Sys2Proof/Machine/VMem.lean ====
section
/-! DEFINITION. Vector loads and stores (12 R257-R260) with their probes (01 R33, R34), gathered lines (02 R46-R49) and
packed elements (05 R107). -/

namespace Sys2Proof.Machine

/-! ### Gathered lines (R46-R49) -/

/-- The tag of the gathered line that an element of a strided load belongs to: first address, stride and size. -/
structure GTag where
  first : Nat
  step  : Int
  size  : Nat
  deriving DecidableEq, Repr

/-- The tag for element `i` of a load, where the stream and its width call for gathered lines (R46). DESIGN CHOICE: a run of G consecutive
elements is a block of G positions from estart on, whose first names the line though the mask may leave it out (log 97). -/
def gatherTag (q : QReg) (w start i : Nat) : Option GTag :=
  let st := q.stride.toInt
  if q.chain || w < 8 || st.natAbs < 128 then none
  else
    let g := 128 / (w / 8)
    let f := start + (i - start) / g * g
    some { first := (q.place w f).1, step := st, size := w / 8 }

/-- The gathered line of a cluster with the tag, which is not stale. -/
def State.findGath (s : State) (t : GTag) : Option GLine :=
  let c := s.cur
  s.gath.find? fun g => g.owner == c.cluster && g.first == t.first && g.step == t.step && g.size == t.size
    && g.part == c.part && g.asid == c.asid && !g.stale

/-- The part of an element that lies in one line: its VA, its length, its page's leaf and its physical address. -/
abbrev GPiece := Nat × Nat × Leaf × Nat

/-- The pieces of an element whose pages are all cached ones (R46). -/
def gathPieces : List (Nat × Nat × Loc) → Option (List GPiece)
  | [] => some []
  | (a, n, .page l pa) :: r =>
    if l.ca = 0 && !l.d && (region pa == .fast || region pa == .cap) then (gathPieces r).map fun ps => (a, n, l, pa) :: ps else none
  | _ => none

/-- The pieces are the bytes of one run of addresses, which a gathered line can hold as one element. -/
def oneRun : List GPiece → Bool
  | (_, n, _, pa) :: q :: r => q.2.2.2 == pa + n && oneRun (q :: r)
  | _ => true

/-- A piece as the fill of a gathered line takes it (R46): from an ordinary line of the cluster cache if one holds it, and else from
its home; no ordinary line is allocated. -/
def State.gathFill (s : State) (p : GPiece) : (LineVal × Bool) × State :=
  let o := s.cur.cluster
  match cacheFind s.cc o (p.2.2.2 / 128) with
  | some _ =>
    let (c, s) := s.ccFetch o (p.2.2.2 / 128) p.2.2.1.key
    ((c.data, c.poison), s)
  | none => s.homeRead o (p.2.2.2 / 128) p.2.2.1.key false

/-- The pieces of an element filled in order: its value, and the first poisoned line. The cluster's other gathered lines never hold an
older value of what has been read (R106): they are checked as against a write of it (R48). -/
def State.gathFills (s : State) : List GPiece → (Nat × Option Nat) × State
  | [] => ((0, none), s)
  | p :: r =>
    let (a, n, _, pa) := p
    let ((d, bad), s) := s.gathFill p
    let s := { s with gath := s.gath.filterMap fun (g : GLine) => g.written s.cur.cluster (pa / 128) d (byteSpan (pa % 128) n) bad }
    let ((y, q), s) := s.gathFills r
    ((lineGet d (pa % 128) n + 2 ^ (8 * n) * y, if bad then some (a / 128 * 128) else q), s)

/-- An ordinary access of the cluster to a line would meet poison (R49, R75). -/
def State.badLine (s : State) (o l : Nat) : Bool :=
  let c := cacheFind s.cc o l
  c.any CLine.poison || (c.all CLine.stale && (s.peekLine l).2)

/-- An element read through its gathered line (R46), which takes a way of its set (R47): its value, and the address of a poisoned line.
An element whose parts lie in two pages that are no neighbours is read as the others are, and stays in no gathered line, and one of a
poisoned line is read afresh. -/
def State.gathRead (s : State) (t : GTag) (ps : List GPiece) : (Nat × Option Nat) × State :=
  let o := s.cur.cluster
  let s := ps.foldl (fun (s : State) p => s.dupTags o (p.2.2.2 / 128)) s
  let pa := (ps.map fun p => p.2.2.2).headD 0
  match (s.findGath t).bind fun g => (g.elems.find? fun e => oneRun ps && e.1 == pa && !ps.any fun p => s.badLine o (p.2.2.2 / 128)).map fun e => (g, e.2) with
  | some (g, x) => ((x.toNat, none), s.gathPut g)
  | none =>
    let ((x, bad), s) := s.gathFills ps
    if bad.isSome || !oneRun ps then ((x, bad), s)
    else
      let c := s.cur
      let old := s.findGath t
      let s := if old.isSome then s else s.ccRoom o (ccSet (t.first / 128))
      ((x, none), s.gathPut { owner := o, first := t.first, step := t.step, size := t.size, part := c.part, asid := c.asid,
                              elems := (pa, BitVec.ofNat 64 x) :: (old.map (·.elems)).getD [] })

/-! ### Elements and their places -/

/-- An element with its place: index, the bit within its first byte, and its located pieces. -/
structure VElem where
  i  : Nat
  t  : Nat
  ps : List (Nat × Nat × Loc)
  deriving DecidableEq, Repr

/-- Why a vector memory instruction stops at an element; `va` lies in the page that fails. -/
inductive VStop where
  | fault (cls kind tval va : Nat)
  | wait
  deriving DecidableEq, Repr

/-- An address that leads nowhere, at `b`, as a reason to stop at the element at `a`. -/
def VStop.ofNoLoc (a b : Nat) : NoLoc → VStop
  | .fault c k e => .fault c k (e.getD a) b
  | .wait => .wait

/-- The elements of the list probed in order (R33): those that have a place, and the first that has none. -/
def State.probe (s : State) (win : Bool) (acc : Acc) (z : EWidth) :
    List (Nat × Nat × Nat) → List VElem × Option (Nat × VStop)
  | [] => ([], none)
  | (i, a, t) :: r =>
    match s.locateAll win acc (pieces a (EWidth.span z t)) with
    | .error (b, e) => ([], some (i, VStop.ofNoLoc a b e))
    | .ok ps =>
      let (l, x) := s.probe win acc z r
      ({ i := i, t := t, ps := ps } :: l, x)

/-- The addresses of the active elements of a stream, as far as they have one, with what stops the walk (R256). -/
def State.elemPlaces (s : State) (q : QReg) (z : EWidth) (on : List Nat) :
    (List (Nat × Nat × Nat) × Option (Nat × VStop)) × (QReg × State) :=
  if q.chain then
    let need := match on.getLast? with
      | some i => i + 1
      | none => 0
    let t := if EWidth.bits z < 8 then q.bit else 0
    let ((l, x), (_, q, s)) := s.chainWalk q (EWidth.span z t) (q.step z) need q.base.toNat
    let got := (on.filter (· < l.length)).map fun i => (i, l.getD i 0, t)
    ((got, x.bind fun (c, k, a) => (on.find? (l.length ≤ ·)).map fun i => (i, .fault c k a a)), (q, s))
  else
    ((on.map fun i => let (a, t) := q.place (EWidth.bits z) i; (i, a, t), none), (q, s))

/-- The places of an element instruction's active elements: all of them probed, and the lowest element that stops it. -/
def State.probeAll (s : State) (q : QReg) (z : EWidth) (on : List Nat) (acc : Acc) :
    (List VElem × Option (Nat × VStop)) × (QReg × State) :=
  let ((ads, x), (q, t)) := s.elemPlaces q z on
  let (es, y) := t.probe (!q.chain) acc z ads
  ((es, y.orElse fun _ => x), (q, t))

/-- The pieces of all elements. -/
def allPieces (es : List VElem) : List (Nat × Nat × Loc) := es.flatMap (·.ps)

/-- One element read at its place; through a gathered line where the load calls for it and the page is cached (R46). -/
def State.readElem (s : State) (tag : Option GTag) (w : Nat) (e : VElem) : (Nat × Option (Nat × Nat)) × State :=
  let plain (s : State) : (Nat × Option (Nat × Nat)) × State :=
    let ((x, bad), s) := s.readPieces s.cur.cluster s.cur.hart true e.ps
    ((low (x / 2 ^ e.t) w, bad), s)
  match tag, gathPieces e.ps with
  | some t, some ps =>
    let ((x, bad), s) := s.gathRead t ps
    ((low x w, bad.map fun a => (a, 0)), s)
  | _, _ => plain s

/-- The elements read in order: their values, and the place of the first poisoned line (R75, R76). -/
def State.readElems (s : State) (tag : Nat → Option GTag) (w : Nat) :
    List VElem → (List (Nat × Nat) × Option (Nat × Nat)) × State
  | [] => (([], none), s)
  | e :: r =>
    let ((x, bad), s) := s.readElem (tag e.i) w e
    let ((l, bad'), s) := s.readElems tag w r
    (((e.i, x) :: l, bad.orElse fun _ => bad'), s)

/-- Byte `k` of a place as earlier elements of a store write it. -/
def writtenByte (ws : List LineWrite) (loc : Loc) (k : Nat) : Option Nat :=
  (ws.reverse.find? fun (v : LineWrite) => v.loc.sameLine loc && v.mask.getLsbD (loc.off + k)).map fun (v : LineWrite) =>
    lineGet v.data (loc.off + k) 1

/-- The bytes `x` of located pieces as earlier elements of a store leave them. -/
def overWrites (ws : List LineWrite) : List (Nat × Nat × Loc) → Nat → Nat
  | [], _ => 0
  | (_, n, loc) :: r, x =>
    ofBytes ((List.range n).map fun k => BitVec.ofNat 8 ((writtenByte ws loc k).getD (x / 2 ^ (8 * k))))
      + 2 ^ (8 * n) * overWrites ws r (x / 2 ^ (8 * n))

/-- What the elements of a store write, in order (R105); elements of 2 or 4 bits write whole bytes, and the rest of the bytes
as they are read (R107). -/
def State.elemWrites (s : State) (w : Nat) (val : Nat → Nat) : List VElem → List LineWrite → List LineWrite × State
  | [], ws => (ws, s)
  | e :: r, ws =>
    if w < 8 then
      let ((x, _), s) := s.readPieces s.cur.cluster s.cur.hart true e.ps
      let b : BitVec 16 := setBits (BitVec.ofNat 16 (overWrites ws e.ps x)) e.t w (val e.i)
      s.elemWrites w val r (addPieces false b.toNat e.ps ws)
    else s.elemWrites w val r (addPieces false (val e.i) e.ps ws)

/-- The elements of a store written. -/
def State.writeElemsAt (s : State) (w : Nat) (val : Nat → Nat) (es : List VElem) : State :=
  let (ws, s) := s.elemWrites w val es []
  s.writeLines s.cur.cluster s.cur.hart ws

/-! ### Operands -/

/-- The stream register as a producer's operand values (R169, log 18). -/
def QReg.pack (q : QReg) : List Word := [q.base, q.stride, BitVec.ofNat 64 (q.left + 2 ^ 48 * (q.cfg.toNat % 2 ^ 16))]

/-- The stream register of recorded operand values. -/
def QReg.unpack (l : List Word) : QReg :=
  let w := (l.getD 2 0).toNat
  { base := l.getD 0 0, stride := l.getD 1 0, count := BitVec.ofNat 64 (w % 2 ^ 48), cfg := BitVec.ofNat 64 (w / 2 ^ 48) }

/-- The stream register that the instruction uses: its recorded value where the producer runs again (R169). -/
def State.stream (s : State) (r : Reg) : QReg := if s.cur.rpt then QReg.unpack s.cur.rpop else s.opQ 0 r

/-- What a probe that stopped at an element has walked, beside what its cause says (R73, R74): the pages of the elements before it, the
failing one too where ctl.tval names a table entry or lies in another page. -/
def State.probed (s : State) (es : List VElem) (c k a va : Nat) : State :=
  s.walked ((allPieces es).map (·.1) ++ (if (c == 3 && k == 1) || a / 65536 != va / 65536 then [va] else []))

/-- A stop of an instruction whose unit is source `src` (R30, R35), after the elements `es`. -/
def State.vstopAt (s : State) (src : Nat) (es : List VElem) : VStop → Out
  | .fault c k a va => (s.probed es c k a va).fault c src k (BitVec.ofNat 64 a)
  | .wait => s.hold

/-- A stop at a vector memory instruction, source 2. -/
def State.vstop (s : State) (es : List VElem) : VStop → Out := s.vstopAt 2 es

/-- An acquire's scope, demoted where the partition is capped (R129), and the state. -/
def State.ordScope (s : State) (on : Bool) (sc : Scope) : Scope × State := if on then s.demote sc else (.h, s)

/-! ### Advancing (R256, R258) -/

/-- A stream register moved past `n` elements; its engine then holds the translations of the pages that come next (R32). -/
def State.advanceQ (s : State) (r : Reg) (q : QReg) (z : EWidth) (n : Nat) : State :=
  let (q, s) := if q.chain then s.chainAdvance q z n else (q.advance z n, s)
  (s.mapCur fun c => c.setQ r.toNat q).fillStream r.toNat

/-- The same for a load. One that runs again (R169) moves the register on from where it stands now, by its own stride, so that it
advances exactly once (R258); one that a later `qset` has written is left as it is (log 18). -/
def State.advanceLoad (s : State) (r : Reg) (q : QReg) (z : EWidth) (n : Nat) : State :=
  match s.cur.redo with
  | none => s.advanceQ r q z n
  | some d =>
    if d.reset then s
    else
      let now := s.cur.q.getD r.toNat {}
      let s := s.advanceQ r { q with base := now.base, count := now.count, cfg := now.cfg } z n
      s.mapCur fun c => c.setQ r.toNat { c.q.getD r.toNat {} with stride := now.stride }

/-! ### Loads -/

/-- The registers that a load gives: its elements, and a truncated vl. -/
def Ctx.loadVals (c : Ctx) (f : VMem) (writes : List (Nat × Nat)) (newVl : Option Nat) : List RegVal :=
  c.groupVals [c.vslot f.rd.toNat] (EWidth.bits f.w) writes
    ++ (match newVl with
      | some v => [({ reg := .c 0, val := v } : RegVal)]
      | none => [])

/-- The end of a load whose elements have places: read, acquire, advance and pend (R258, R259). `n` is the count that the
load uses, `q` its register with the links it has read, `newVl` a truncated vl. Poison leaves the stream register as it is
(R76), and the load that runs again moves it (log 18). Where a pre-emption stops it, the elements before that boundary are loaded, and
the register stays (R152, R258); `uses` are the places of the index register that an element reads. -/
def loadElems (f : VMem) (acq gather : Bool) (n : Nat) (q : QReg) (es : List VElem) (newVl : Option Nat) (adv : Bool)
    (base s : State) (uses : Nat → List VPlace := fun _ => []) : Out :=
  let w := EWidth.bits f.w
  let c := base.cur
  let cut := c.splitAt 1 n f.rd w uses
  let es := es.filter fun e => cut.all fun k => e.i < k
  let ps := allPieces es
  let (sc, t) := s.ordScope acq f.sc
  let t := (t.useAll .read ps).freshenAll sc ps
  let tag (i : Nat) : Option GTag := if gather then gatherTag q w c.estart i else none
  let ((vals, bad), t) := t.readElems tag w es
  match bad with
  | some p =>
    (base.mapCur fun c => c.setCr 2 0).produceLate (c.loadVals f (vals ++ tailWrites n (c.cap w) false) newVl) (poisonCause 2 p) q.pack
      (if adv then some f.rs1.toNat else none)
  | none =>
    let t := t.countDiscarded c.part (discardedLines ps)
    match cut with
    | some k => t.stopElems k (c.loadVals f vals none) 0
    | none =>
      let t := if acq then t.acquire sc else t
      let t := if adv then t.advanceLoad f.rs1 q f.w n else t
      ((t.produceVar (c.loadVals f (vals ++ tailWrites n (c.cap w) false) newVl) 0 none q.pack).mapCur fun c => c.setCr 2 0).retire

/-- The first element at which a fault-only-first load ends (R34): it lies in a page that fails or that has NS = 1, unless
element 0 lies in that page. -/
def ffEnd (es : List VElem) (stop : Option (Nat × VStop)) : Option Nat :=
  let pagesOf (e : VElem) : List Nat := e.ps.filterMap fun p => match p.2.2 with
    | .page l _ => if l.ns then some (p.1 / 65536) else none
    | _ => none
  let first := match es.head? with
    | some e => if e.i = 0 then pagesOf e else []
    | none => []
  let ns := (es.find? fun e => (pagesOf e).any fun p => !first.contains p).map (·.i)
  ns.orElse fun _ => stop.map Prod.fst

/-- N of a unit-stride instruction (R258). -/
def unitCount (c : Ctx) (w : Nat) (q : QReg) : Nat := min (c.count w) q.left

/-- VLD. -/
def execVld (f : VMem) (s : State) : Out :=
  let c := s.cur
  let q := s.stream f.rs1
  let n := unitCount c (EWidth.bits f.w) q
  if n = 0 then s.retire
  else if c.badMask f.vm.toNat c.estart n then s.poisonV
  else
    let ((es, stop), (q, t)) := s.probeAll q f.w (activeElems c.estart n (s.opM 0 f.vm.toNat)) .read
    match stop with
    | some (_, x) => s.vstop es x
    | none => loadElems f (f.ord == .acq) true n q es none true s t

/-- VLDFF (R34, R259). DEDUCED: a page that the policy closes (class 2, kind 5) fails as one of kinds 0 to 4 does, and truncates vl
(log 91). -/
def execVldff (f : VMem) (s : State) : Out :=
  let c := s.cur
  let q := s.stream f.rs1
  let n := unitCount c (EWidth.bits f.w) q
  if n = 0 then s.retire
  else if c.badMask f.vm.toNat c.estart n then s.poisonV
  else
    let ((es, stop), (q, t)) := s.probeAll q f.w (activeElems c.estart n (s.opM 0 f.vm.toNat)) .read
    let hard := match stop with
      | some (i, .fault c k a va) => if i = 0 ∨ c = 3 then some (VStop.fault c k a va) else none
      | some (_, .wait) => some VStop.wait
      | none => none
    match ffEnd es stop, hard with
    | some 0, some x => s.vstop es x
    | some e, some x =>
      if stop.any (fun p => p.1 = e) then s.vstop es x
      else loadElems f false true (min e n) q (es.filter fun x => x.i < e) (some e) true s t
    | some e, none => loadElems f false true (min e n) q (es.filter fun x => x.i < e) (some e) true s t
    | none, _ => loadElems f false true n q es none true s t

/-! ### Stores -/

/-- The end of a store whose elements have places: release, write, advance (R258). Where a pre-emption stops it, the elements before
that boundary are stored, and the register stays (R152). -/
def storeElems (f : VMem) (n : Nat) (q : QReg) (es : List VElem) (adv : Bool) (data : BitVec 16384) (s : State) : Out :=
  let w := EWidth.bits f.w
  let rel := f.ord == .rel
  let cut := s.cur.stopAt 1 n
  let es := es.filter fun e => cut.all fun k => e.i < k
  let (sc, s) := s.ordScope rel f.sc
  let s := if rel then s.release sc else s
  let s := s.useAll .write (allPieces es)
  let l := s.cur.lanes
  let s := s.writeElemsAt w (fun i => elemGet l w data i) es
  let s := if rel then s.release sc else s
  match cut with
  | some k => s.stopElems k [] 0
  | none => ((if adv then s.advanceQ f.rs1 q f.w n else s).mapCur fun c => c.setCr 2 0).retire

/-- VST. -/
def execVst (f : VMem) (s : State) : Out :=
  let c := s.cur
  let w := EWidth.bits f.w
  let q := s.opQ 0 f.rs1
  let n := unitCount c w q
  let on := activeElems c.estart n (s.opM 0 f.vm.toNat)
  if n = 0 then s.retire
  else if c.badMask f.vm.toNat c.estart n || on.any (fun i => c.badPlaces [c.place f.rd w i]) then s.poisonV
  else
    let ((es, stop), (q, t)) := s.probeAll q f.w on .write
    match stop with
    | some (_, x) => s.vstop es x
    | none => storeElems f n q es true (s.opV 1 f.rd) t

/-! ### Indexed forms (R260) -/

/-- The addresses of the active elements of an indexed instruction. DEDUCED: one that runs again reads its index vector and its mask as
they stand then (R169; log 47). -/
def State.idxPlaces (s : State) (f : VMem) (q : QReg) (on : List Nat) : List (Nat × Nat × Nat) :=
  let w := EWidth.bits f.w
  let ix := s.opGroup 2 f.rs2 (idxGroup w)
  on.map fun i =>
    (i, (q.base + f.disp.signExtend 64 + BitVec.ofNat 64 (groupGet s.cur.lanes 32 ix i * (w / 8))).toNat, 0)

/-- The poison of the index elements that an indexed instruction reads. -/
def Ctx.badIndex (c : Ctx) (f : VMem) (on : List Nat) : Bool := on.any fun i => c.badPlaces [c.place f.rs2 32 i]

/-- VLDX. -/
def execVldx (f : VMem) (s : State) : Out :=
  let c := s.cur
  let q := s.stream f.rs1
  let n := c.count (EWidth.bits f.w)
  let on := activeElems c.estart n (s.opM 0 f.vm.toNat)
  if n = 0 then s.retire
  else if c.badMask f.vm.toNat c.estart n || c.badIndex f on then s.poisonV
  else
    match s.probe (!q.chain) .read f.w (s.idxPlaces f q on) with
    | (es, some (_, x)) => s.vstop es x
    | (es, none) => loadElems f (f.ord == .acq) false n q es none false s s fun i => [c.place f.rs2 32 i]

/-- VSTX. -/
def execVstx (f : VMem) (s : State) : Out :=
  let c := s.cur
  let w := EWidth.bits f.w
  let q := s.opQ 0 f.rs1
  let n := c.count w
  let on := activeElems c.estart n (s.opM 0 f.vm.toNat)
  if n = 0 then s.retire
  else if c.badMask f.vm.toNat c.estart n || on.any (fun i => c.badPlaces [c.place f.rd w i]) || c.badIndex f on then s.poisonV
  else
    match s.probe (!q.chain) .write f.w (s.idxPlaces f q on) with
    | (es, some (_, x)) => s.vstop es x
    | (es, none) => storeElems f n q es false (s.opV 1 f.rd) s

end Sys2Proof.Machine
end

