-- ==== Sys2Proof/Machine/CacheEvents.lean ====
section
/-! DEFINITION. What caches, homes and stream engines do on their own (01 R32, R35; 02 R41-R47; 03 R69, R70; 05 R108, R109,
R117). -/

namespace Sys2Proof.Machine

/-! ### Write-backs, fills and staleness -/

/-- A gathered line that holds an element in a line of a cluster, dropped (R47). -/
def State.evictGath (s : State) (o l : Nat) : State :=
  { s with gath := s.gath.filter fun (g : GLine) => !(g.owner == o && g.first / 128 == l) }

/-- LINE_WRITE_BACK: a line is replaced; its dirty bytes go toward the home (R41, R42, R55, R108), a clean one is dropped. -/
def execLineWriteBack (k : CacheKind) (owner line : Nat) (s : State) : Out :=
  .next <| match k with
    | .l1 => match cacheFind s.l1 owner line with
      | some c => s.l1Evict c
      | none => s
    | .cluster => match cacheFind s.cc owner line with
      | some c => s.ccEvict c
      | none => s
    | .gathered => s.evictGath owner line
    | .l2 => match cacheFind s.l2 owner line with
      | some c => { s.l2WriteBack c with l2 := cacheDrop s.l2 owner line }
      | none => s

/-- DIRTY_WRITE_BACK_SWEEP: every dirty byte of the L1s and cluster caches leaves for its home (R117); the lines stay. -/
def execDirtyWriteBackSweep (s : State) : Out :=
  let s := (s.l1.filter fun (c : CLine) => c.dirty != 0).foldl State.l1WriteBack s
  let s := { s with l1 := s.l1.map fun (c : CLine) => { c with dirty := 0 } }
  let s := (s.cc.filter fun (c : CLine) => c.dirty != 0).foldl State.ccSend s
  .next { s with cc := s.cc.map CLine.cleaned }

/-- A clean line marked stale. -/
def CLine.grownStale (o l : Nat) (c : CLine) : CLine := if c.isAt o l && c.dirty == 0 then { c with stale := true } else c

/-- LINE_STALE_TIMEOUT (R117): a clean line becomes stale, ordinary or gathered. -/
def execLineStaleTimeout (k : CacheKind) (owner line : Nat) (s : State) : Out :=
  .next <| match k with
    | .l1 => { s with l1 := s.l1.map (CLine.grownStale owner line) }
    | .cluster => { s with cc := s.cc.map (CLine.grownStale owner line) }
    | .gathered => { s with gath := s.gath.map fun (g : GLine) =>
        if g.owner == owner && g.first / 128 == line then { g with stale := true } else g }
    | .l2 => s

/-- LINE_FILL_RETURN (R44): a stale line is refetched, from the cluster cache or from the home. -/
def execLineFillReturn (k : CacheKind) (owner line : Nat) (s : State) : Out :=
  .next <| match k with
    | .l1 => match cacheFind s.l1 owner line with
      | some c => if c.stale then (s.l1Fetch (owner / 8) (owner % 8) line c.key).2 else s
      | none => s
    | .cluster => match cacheFind s.cc owner line with
      | some c => if c.stale then (s.ccFetch owner line c.key).2 else s
      | none => s
    | _ => s

/-! ### Homes (R109) -/

/-- The die of a line's home (R15); the capacity tier stands with the system die. -/
def homeDie (line : Nat) : Nat := if region (128 * line) == .fast then octetOf (128 * line) / 12 else 4

/-- The number up to which an origin's writes addressed to a die are all applied. -/
def State.watermark (s : State) (die o : Nat) : Nat :=
  match s.sends.find? fun t => t.origin == o && homeDie t.line == die with
  | some t => t.num - 1
  | none => s.counts.getD o 0

/-- WATERMARK_BEACON. -/
def execWatermarkBeacon (die : Nat) (s : State) : Out :=
  if 5 ≤ die then .next s
  else .next { s with marks := (die, (List.range 5).map (s.watermark die)) :: s.marks.filter fun (m : Nat × List Nat) => m.1 != die }

/-- HOME_APPLY_WRITE: the oldest held write of an origin is applied where its causal predecessors have been. -/
def execHomeApplyWrite (origin : Nat) (s : State) : Out :=
  match s.sends.find? fun t => t.origin == origin with
  | some t => if s.canApply t then .next (s.applySend t) else .next s
  | none => .next s

/-! ### Stalls and hints -/

/-- STALLED_WRITE_RESUME (R35): the stalled word comes to its hart's turn and walks again. -/
def execStalledWriteResume (slot : Nat) (s : State) : Out :=
  match s.others.find? fun c => c.slot == slot && c.status == .running && c.held with
  | some c => .next (s.focus c.hartNum)
  | none => .next s

/-- ROW_ACTIVATE_HINT (R69): acted on or dropped, a hint has no visible effect. -/
def execRowActivateHint (_line : Nat) (_idle : Bool) (s : State) : Out := .next s

/-! ### Streams ahead of their loop (R32, R70) -/

/-- What is done for the context of a slot as if it were in focus. -/
def State.asIfFocus (s : State) (slot : Nat) (f : State → State) : State :=
  if s.cur.status == .running && s.cur.slot == slot then f s
  else match s.others.find? fun c => c.slot == slot && c.status == .running with
    | none => s
    | some c =>
      let t := f { s with cur := c, others := (s.others.filter fun d => !(d.slot == slot && d.status == .running)) ++ [s.cur] }
      { t with cur := t.others.getLast?.getD t.cur, others := t.others.dropLast ++ [t.cur] }

/-- The next header that the stream engine has not read, up to four pages ahead (R32). A failure raises nothing here. -/
def State.readHeader (s : State) (n : Nat) : State :=
  let q := s.cur.q.getD n {}
  if !q.chain || q.left == 0 then s
  else
    let page := q.base.toNat / 65536
    let pages := q.ahead 4 page
    if 4 ≤ pages.length then s
    else match s.successor true q (pages.getLast?.getD page) with
      | .error (c, k, a) => s.metAt s.cur.part s.cur.asid c k a
      | .ok (_, q, t) => (t.mapCur fun c => { c with q := c.q.setIfInBounds n q }).fillStream n

/-- CHAIN_HEADER_READ. -/
def execChainHeaderRead (slot q : Nat) (s : State) : Out := .next (s.asIfFocus slot fun s => s.readHeader q)

/-- The places of the next `k` elements as far as the held links lead. -/
def QReg.strip (q : QReg) (e step : Nat) : Nat → Nat → List Nat
  | 0, _ => []
  | k + 1, pos =>
    let at_ : Option Nat :=
      if 128 ≤ pos % 65536 ∧ pos % 65536 + e ≤ 65536 then some pos
      else (q.links.find? fun l => l.1 == (if pos % 65536 < 128 then pos / 65536 - 1 else pos / 65536)).map
        fun l => l.2 * 65536 + 128
    match at_ with
    | none => []
    | some a => a :: q.strip e step k (chainNext a step)

/-- Lines filled into the cluster cache as far as their pages translate and may be prefetched (R70); A and DT are not set. -/
def State.prefetch (s : State) : List Nat → State
  | [] => s
  | a :: r =>
    let at_ := s.locate s.cur.cluster s.cur.part s.cur.asid s.cur.slot false a .read
    let s := s.walked [a]
    match at_ with
    | .ok (.page l pa) =>
      if l.ca == 0 && !l.ns && !l.d && !l.m then (s.ccFetch s.cur.cluster (pa / 128) l.key).2.prefetch r else s.prefetch r
    | _ => s

/-- CHAIN_PREFETCH: lines of the next strip on pages up to four ahead, at most 32 of them; which come next is free, for the engine
goes on as earlier fills return (R70). -/
def execChainPrefetch (slot q : Nat) (s : State) : Out :=
  .next (s.asIfFocus slot fun s =>
    let r := s.cur.q.getD q {}
    if !r.chain then s
    else
      let e := max 1 (2 ^ bits r.cfg 0 3 * 2 / 8)
      let step := if 1 ≤ r.stride.toNat ∧ r.stride.toNat ≤ 65408 then r.stride.toNat else e
      let places := r.strip e step (min s.cur.vl r.left) r.base.toNat
      let near := (r.base.toNat / 65536) :: r.ahead 4 (r.base.toNat / 65536)
      let lines := ((places.filter fun a => near.contains (a / 65536)).flatMap fun a => [a / 128 * 128, (a + e - 1) / 128 * 128]).eraseDups
      s.prefetch ((lines.drop (Config.pick s.nd 12 % (lines.length + 1))).take 32))

end Sys2Proof.Machine
end

