-- ==== Sys2Proof/Machine/Scalar.lean ====
section
/-! DEFINITION. Scalar integer instructions: register operands (10 R212-R214), immediates (R215). -/

namespace Sys2Proof.Machine

/-! ### Shapes -/

/-- A fixed-latency scalar instruction of one register operand (R212, R363). -/
def scalar1 (rd a : Reg) (f : Word → Word) (s : State) : Out :=
  if s.badS false [a] then s.poisonS
  else (s.produceFixed [(.s rd.toNat, (f (s.opS 0 a)).toNat)] 0).retire

/-- A fixed-latency scalar instruction of two register operands (R212, R363). DESIGN CHOICE: a shift consumes the poison of the whole of
its register count, though it ignores [63:6] of it (R213, log 97). -/
def scalar2 (rd a b : Reg) (f : Word → Word → Word) (s : State) : Out :=
  if s.badS false [a, b] then s.poisonS
  else (s.produceFixed [(.s rd.toNat, (f (s.opS 0 a) (s.opS 1 b)).toNat)] 0).retire

/-- A fixed-latency scalar instruction of three register operands (R212, R363). -/
def scalar3 (rd a b c : Reg) (f : Word → Word → Word → Word) (s : State) : Out :=
  if s.badS false [a, b, c] then s.poisonS
  else (s.produceFixed [(.s rd.toNat, (f (s.opS 0 a) (s.opS 1 b) (s.opS 2 c)).toNat)] 0).retire

/-- A variable-latency scalar instruction of two register operands (R166, R212). -/
def scalarVar2 (rd a b : Reg) (f : Word → Word → Word) (s : State) : Out :=
  if s.badS false [a, b] then s.poisonS
  else
    let x := s.opS 0 a
    let y := s.opS 1 b
    (s.produceVar [{ reg := .s rd.toNat, val := (f x y).toNat }] 0 none [x, y]).retire

/-! ### Functions (R213-R215) -/

/-- 1 or 0 (R213). -/
def boolWord (b : Bool) : Word := if b then 1 else 0

/-- The high half of the signed product. -/
def mulHigh (a b : Word) : Word := BitVec.ofInt 64 (a.toInt * b.toInt / 2 ^ 64)
/-- The high half of the unsigned product. -/
def mulHighU (a b : Word) : Word := BitVec.ofNat 64 (a.toNat * b.toNat / 2 ^ 64)
/-- Signed quotient (R214). -/
def divS (a b : Word) : Word := if b = 0 then BitVec.allOnes 64 else BitVec.ofInt 64 (a.toInt.tdiv b.toInt)
/-- Unsigned quotient (R214). -/
def divU (a b : Word) : Word := if b = 0 then BitVec.allOnes 64 else BitVec.ofNat 64 (a.toNat / b.toNat)
/-- Signed remainder (R214). -/
def remS (a b : Word) : Word := if b = 0 then a else BitVec.ofInt 64 (a.toInt.tmod b.toInt)
/-- Unsigned remainder (R214). -/
def remU (a b : Word) : Word := if b = 0 then a else BitVec.ofNat 64 (a.toNat % b.toNat)
/-- Shift left by the low six bits (R213). -/
def shlWord (a b : Word) : Word := a <<< (b.toNat % 64)
/-- Logical shift right by the low six bits (R213). -/
def shrWord (a b : Word) : Word := a >>> (b.toNat % 64)
/-- Arithmetic shift right by the low six bits (R213). -/
def sarWord (a b : Word) : Word := a.sshiftRight (b.toNat % 64)
/-- Signed minimum (R213). -/
def minS (a b : Word) : Word := if b.slt a then b else a
/-- Signed maximum (R213). -/
def maxS (a b : Word) : Word := if a.slt b then b else a
/-- Unsigned minimum (R213). -/
def minU (a b : Word) : Word := if b.ult a then b else a
/-- Unsigned maximum (R213). -/
def maxU (a b : Word) : Word := if a.ult b then b else a
/-- Leading zero bits (R213). -/
def clzWord (a : Word) : Word := BitVec.ofNat 64 (leadingZeros 64 a.toNat)
/-- Trailing zero bits (R213). -/
def ctzWord (a : Word) : Word := BitVec.ofNat 64 (trailingZeros a.toNat 64)
/-- One bits (R213). -/
def popcWord (a : Word) : Word := BitVec.ofNat 64 (popCount a.toNat 64)
/-- Bits [w-1:0] sign-extended from bit w - 1 (R215). -/
def sextBits (w : Nat) (a : Word) : Word := sextWord w a.toNat
/-- Bits [w-1:0] zero-extended (R215). -/
def zextBits (w : Nat) (a : Word) : Word := BitVec.ofNat 64 (low a.toNat w)
/-- Bits [pos+len-1:pos] zero-extended (R215). -/
def bfxWord (pos len : Nat) (a : Word) : Word := BitVec.ofNat 64 (bits a pos len)
/-- `d` with bits [pos+len-1:pos] replaced by the low bits of `a` (R215). -/
def bfiWord (pos len : Nat) (d a : Word) : Word := setBits d pos len (low a.toNat len)
/-- (IMM << 32) OR d<31:0> (R215). -/
def liHiWord (imm : BitVec 32) (d : Word) : Word := imm ++ (d.setWidth 32 : BitVec 32)

/-! ### Register operands -/

/-- ADD (R213). -/
def execAdd (rd rs1 rs2 : Reg) (s : State) : Out := scalar2 rd rs1 rs2 (· + ·) s
/-- SUB (R213). -/
def execSub (rd rs1 rs2 : Reg) (s : State) : Out := scalar2 rd rs1 rs2 (· - ·) s
/-- MUL (R213). -/
def execMul (rd rs1 rs2 : Reg) (s : State) : Out := scalar2 rd rs1 rs2 (· * ·) s
/-- MULH (R213). -/
def execMulh (rd rs1 rs2 : Reg) (s : State) : Out := scalar2 rd rs1 rs2 mulHigh s
/-- MULHU (R213). -/
def execMulhu (rd rs1 rs2 : Reg) (s : State) : Out := scalar2 rd rs1 rs2 mulHighU s
/-- DIV (R214). -/
def execDiv (rd rs1 rs2 : Reg) (s : State) : Out := scalarVar2 rd rs1 rs2 divS s
/-- DIVU (R214). -/
def execDivu (rd rs1 rs2 : Reg) (s : State) : Out := scalarVar2 rd rs1 rs2 divU s
/-- REM (R214). -/
def execRem (rd rs1 rs2 : Reg) (s : State) : Out := scalarVar2 rd rs1 rs2 remS s
/-- REMU (R214). -/
def execRemu (rd rs1 rs2 : Reg) (s : State) : Out := scalarVar2 rd rs1 rs2 remU s
/-- AND (R213). -/
def execAnd (rd rs1 rs2 : Reg) (s : State) : Out := scalar2 rd rs1 rs2 (· &&& ·) s
/-- OR (R213). -/
def execOr (rd rs1 rs2 : Reg) (s : State) : Out := scalar2 rd rs1 rs2 (· ||| ·) s
/-- XOR (R213). -/
def execXor (rd rs1 rs2 : Reg) (s : State) : Out := scalar2 rd rs1 rs2 (· ^^^ ·) s
/-- SHL (R213). -/
def execShl (rd rs1 rs2 : Reg) (s : State) : Out := scalar2 rd rs1 rs2 shlWord s
/-- SHR (R213). -/
def execShr (rd rs1 rs2 : Reg) (s : State) : Out := scalar2 rd rs1 rs2 shrWord s
/-- SAR (R213). -/
def execSar (rd rs1 rs2 : Reg) (s : State) : Out := scalar2 rd rs1 rs2 sarWord s
/-- SLT (R213). -/
def execSlt (rd rs1 rs2 : Reg) (s : State) : Out := scalar2 rd rs1 rs2 (fun a b => boolWord (a.slt b)) s
/-- SLTU (R213). -/
def execSltu (rd rs1 rs2 : Reg) (s : State) : Out := scalar2 rd rs1 rs2 (fun a b => boolWord (a.ult b)) s
/-- MIN (R213). -/
def execMin (rd rs1 rs2 : Reg) (s : State) : Out := scalar2 rd rs1 rs2 minS s
/-- MAX (R213). -/
def execMax (rd rs1 rs2 : Reg) (s : State) : Out := scalar2 rd rs1 rs2 maxS s
/-- MINU (R213). -/
def execMinu (rd rs1 rs2 : Reg) (s : State) : Out := scalar2 rd rs1 rs2 minU s
/-- MAXU (R213). -/
def execMaxu (rd rs1 rs2 : Reg) (s : State) : Out := scalar2 rd rs1 rs2 maxU s
/-- CLZ (R213). -/
def execClz (rd rs1 : Reg) (s : State) : Out := scalar1 rd rs1 clzWord s
/-- CTZ (R213). -/
def execCtz (rd rs1 : Reg) (s : State) : Out := scalar1 rd rs1 ctzWord s
/-- POPC (R213). -/
def execPopc (rd rs1 : Reg) (s : State) : Out := scalar1 rd rs1 popcWord s
/-- MOV (R213). -/
def execMov (rd rs1 : Reg) (s : State) : Out := scalar1 rd rs1 id s
/-- SEL (R213): the condition is rs3. -/
def execSel (rd rs1 rs2 rs3 : Reg) (s : State) : Out :=
  scalar3 rd rs1 rs2 rs3 (fun a b c => if c = 0 then b else a) s

/-! ### Immediates (R215) -/

/-- ADDI. -/
def execAddi (rd rs1 : Reg) (imm : BitVec 32) (s : State) : Out := scalar1 rd rs1 (· + imm.signExtend 64) s
/-- ANDI. -/
def execAndi (rd rs1 : Reg) (imm : BitVec 32) (s : State) : Out := scalar1 rd rs1 (· &&& imm.signExtend 64) s
/-- ORI. -/
def execOri (rd rs1 : Reg) (imm : BitVec 32) (s : State) : Out := scalar1 rd rs1 (· ||| imm.signExtend 64) s
/-- XORI. -/
def execXori (rd rs1 : Reg) (imm : BitVec 32) (s : State) : Out := scalar1 rd rs1 (· ^^^ imm.signExtend 64) s
/-- SHLI. -/
def execShli (rd rs1 : Reg) (n : BitVec 6) (s : State) : Out := scalar1 rd rs1 (· <<< n.toNat) s
/-- SHRI. -/
def execShri (rd rs1 : Reg) (n : BitVec 6) (s : State) : Out := scalar1 rd rs1 (· >>> n.toNat) s
/-- SARI. -/
def execSari (rd rs1 : Reg) (n : BitVec 6) (s : State) : Out := scalar1 rd rs1 (·.sshiftRight n.toNat) s
/-- SLTI. -/
def execSlti (rd rs1 : Reg) (imm : BitVec 32) (s : State) : Out :=
  scalar1 rd rs1 (fun a => boolWord (a.slt (imm.signExtend 64))) s
/-- SEXT: IMM is a width from 1 to 64. -/
def execSext (rd rs1 : Reg) (w : BitVec 7) (s : State) : Out := scalar1 rd rs1 (sextBits w.toNat) s
/-- ZEXT. -/
def execZext (rd rs1 : Reg) (w : BitVec 7) (s : State) : Out := scalar1 rd rs1 (zextBits w.toNat) s
/-- BFX. -/
def execBfx (rd rs1 : Reg) (pos : BitVec 6) (len : BitVec 7) (s : State) : Out :=
  scalar1 rd rs1 (bfxWord pos.toNat len.toNat) s
/-- BFI: it also reads rd. -/
def execBfi (rd rs1 : Reg) (pos : BitVec 6) (len : BitVec 7) (s : State) : Out :=
  scalar2 rd rd rs1 (bfiWord pos.toNat len.toNat) s
/-- LI. -/
def execLi (rd : Reg) (imm : BitVec 32) (s : State) : Out := scalar1 rd 0 (fun _ => imm.signExtend 64) s
/-- LI_HI: it also reads rd. -/
def execLiHi (rd : Reg) (imm : BitVec 32) (s : State) : Out := scalar1 rd rd (liHiWord imm) s

end Sys2Proof.Machine
end

