-- ==== Sys2Proof/Machine/Control.lean ====
section
/-! DEFINITION. Branches, jumps, loops and yield (10 R221-R229). -/

namespace Sys2Proof.Machine

/-- A target: (pc + sext(IMM)) mod 2^32 (R221). -/
def Ctx.branchTo (c : Ctx) (off : BitVec 32) : BitVec 32 := c.pc + off

/-- A conditional branch (R222). -/
def branch (rs1 rs2 : Reg) (off : BitVec 32) (cond : Word → Word → Bool) (s : State) : Out :=
  if s.badS false [rs1, rs2] then s.poisonS
  else if cond (s.opS 0 rs1) (s.opS 1 rs2) then s.retireTo (s.cur.branchTo off)
  else s.retire

/-- BEQ. -/
def execBeq (rs1 rs2 : Reg) (off : BitVec 32) (s : State) : Out := branch rs1 rs2 off (· == ·) s
/-- BNE. -/
def execBne (rs1 rs2 : Reg) (off : BitVec 32) (s : State) : Out := branch rs1 rs2 off (· != ·) s
/-- BLT. -/
def execBlt (rs1 rs2 : Reg) (off : BitVec 32) (s : State) : Out := branch rs1 rs2 off (fun a b => a.slt b) s
/-- BGE. -/
def execBge (rs1 rs2 : Reg) (off : BitVec 32) (s : State) : Out := branch rs1 rs2 off (fun a b => !a.slt b) s
/-- BLTU. -/
def execBltu (rs1 rs2 : Reg) (off : BitVec 32) (s : State) : Out := branch rs1 rs2 off (fun a b => a.ult b) s
/-- BGEU. -/
def execBgeu (rs1 rs2 : Reg) (off : BitVec 32) (s : State) : Out := branch rs1 rs2 off (fun a b => !a.ult b) s

/-- JMP (R222). -/
def execJmp (off : BitVec 32) (s : State) : Out := s.retireTo (s.cur.branchTo off)

/-- JAL (R222): the link is the word after this one. -/
def execJal (rd : Reg) (off : BitVec 32) (s : State) : Out :=
  (s.produceFixed [(.s rd.toNat, (s.cur.pc + 1).toNat)] 0).retireTo (s.cur.branchTo off)

/-- RET (R222). DESIGN CHOICE: it consumes the poison of rs1<63:32> too, which its target ignores (R363, log 97). -/
def execRet (rs1 : Reg) (s : State) : Out :=
  if s.badS false [rs1] then s.poisonS else s.retireTo ((s.opS 0 rs1).setWidth 32)

/-- The stage masks m8 to m15 (R226), as register writes. -/
def stageMasks (trip pass stg : Nat) : List (PReg × Nat) :=
  (List.range 8).map fun k => (.m (8 + k), if k < stg ∧ k ≤ pass ∧ pass - k < trip then 2 ^ 8192 - 1 else 0)

/-- LOOP_INIT (R226): `stages` is from 1 to 8. -/
def execLoopInit (rs1 : Reg) (stages : BitVec 4) (s : State) : Out :=
  if s.badS false [rs1] then s.poisonS
  else
    let trip := min (s.opS 0 rs1).toNat (2 ^ 48 - 1)
    (s.produceFixed ([(.c 4, trip), (.c 5, 0), (.c 6, stages.toNat)] ++ stageMasks trip 0 stages.toNat) 0).retire

/-- LOOP (R227). -/
def execLoop (off : BitVec 32) (s : State) : Out :=
  let trip := (s.opC 0 4).toNat % 2 ^ 48
  let stg := (s.opC 2 6).toNat % 16
  let p := if trip = 0 then 1 else trip + max stg 1 - 1
  let pass := ((s.opC 1 5).toNat + 1) % 2 ^ 49
  if pass < p then (s.produceFixed ((.c 5, pass) :: stageMasks trip pass stg) 0).retireTo (s.cur.branchTo off)
  else (s.produceFixed [(.c 5, pass)] 0).retire

/-- YIELD (R229): no effect but the advance; the scheduler's switch after it is an event of its own. -/
def execYield (s : State) : Out := s.retire

end Sys2Proof.Machine
end

