-- ==== Sys2Proof/Machine/Convert.lean ====
section
/-! DEFINITION. Conversions, MX scales, quantisation and dequantisation (09 R202-R206). -/

namespace Sys2Proof

/-- The registers of the source group, of width TY2, and of the destination group, of width TY (R201). -/
def TR.srcGroup (f : TR) : Nat := max 1 (f.ty2.bits / f.ty.bits)
/-- See `TR.srcGroup`. -/
def TR.dstGroup (f : TR) : Nat := max 1 (f.ty.bits / f.ty2.bits)

end Sys2Proof

namespace Sys2Proof.Machine

/-! ### Operations on patterns -/

/-- EMAX of R204. -/
def mxEmax : Ty → Int
  | .e4m3 => 8 | .e5m2 => 15 | .e3m2 => 4 | .e2m3 => 2 | .e2m1 => 2 | _ => 0

/-- The magnitude's place for a maximum: floor(log2 |x|) of a finite non-zero value. -/
def log2Of : FVal → Option Int
  | .fin _ m e => if m = 0 then none else some ((ilog2 m : Int) + e)
  | _ => none

/-- The E8M0 scale of a block's considered values (R204). -/
def mxScaleOf (t : Ty) (xs : List FVal) : Nat :=
  if xs.any (fun x => x == .nan || x == .inf true || x == .inf false) then 255
  else match (xs.filterMap log2Of).max? with
    | none => 0
    | some k => (clampInt (-127) 127 (k - mxEmax t) + 127).toNat

/-- A result of quantisation saturated to the format (R205): a code above the largest finite value, or an overflow of the
rounding, gives that value with OF and NX. -/
def satCode (f : Fmt) (neg : Bool) (r : Nat × Flags) : Nat × Flags :=
  if r.2 &&& fOF != 0 then (f.signed neg f.maxCode, fOF ||| fNX) else r

/-- An exact value rounded to an integer with a random word (R199): the integer, and whether that changed it. -/
def toIntSr (r : Nat) (neg : Bool) (m : Nat) (e : Int) : Int × Bool :=
  if m = 0 then (0, false) else
    let (n, rem, half) := splitAt m e 0
    let d := if 0 ≤ e then 0 else if ilog2 m + 2 < (-e).toNat then m * 2 ^ 32 / 2 ^ min (-e).toNat 400 else rem * 2 ^ 32 / (2 * half)
    let n := if rem != 0 && 2 ^ 32 ≤ d + r then n + 1 else n
    ((if neg then -(n : Int) else n), rem != 0)

/-- One element of `vmxq` (R205): `sr` carries the random word of a stochastic instruction. -/
def mxQuant (t : Ty) (sr : Option Nat) (scale : Nat) (x : FVal) : Nat × Flags :=
  if scale = 255 then (0, 0) else
    let y : FVal := match x with
      | .fin n m e => .fin n m (e + 127 - scale)
      | v => v
    match y with
    | .nan => if t = .e4m3 then (0x7F, 0) else if t = .e5m2 then (0x7E, 0) else (0, fNV)
    | .inf neg => if t = .i8 then (if neg then 0x80 else 0x7F, fOF ||| fNX)
                  else ((fmtOf t).signed neg (fmtOf t).maxCode, fOF ||| fNX)
    | .fin neg m e =>
      if t = .i8 then
        let (z, inexact) := match sr with
          | none => toIntFp .rne neg m (e + 6)
          | some r => toIntSr r neg m (e + 6)
        let k := clampInt (-128) 127 z
        (ofSigned 8 k, if k != z then fOF ||| fNX else if inexact then fNX else 0)
      else satCode (fmtOf t) neg (match sr with
        | none => roundFp (fmtOf t) .rne neg m e
        | some r => roundSr (fmtOf t) r neg m e)

/-- One element of `vmxdq` (R206). -/
def mxDequant (t src : Ty) (mode : Rm) (scale x : Nat) : Nat × Flags :=
  if scale = 255 then ((canonNan (fmtOf t)).1, 0)
  else match mxVal src x with
    | .nan => ((canonNan (fmtOf t)).1, 0)
    | .inf neg => ((fmtOf t).infCode neg, 0)
    | .fin n m e => roundFp (fmtOf t) mode n m (e + scale - 127)

/-! ### Shapes -/

/-- A conversion of each element of the source (R203): `op` takes the index and the pattern, `more` names what else the
element reads. -/
def convJob (f : TR) (more : Nat → List VPlace) (op : Nat → Nat → Nat × Flags) (s : State) : VJob :=
  let c := s.cur
  let xs := s.opGroup 0 f.rs1 f.srcGroup
  { n := c.count (min f.ty.bits f.ty2.bits), w := f.ty.bits, g := f.dstGroup, unit := 1, whole := true
    uses := fun i => c.place f.rs1 f.ty2.bits i :: more i
    op := fun i => some (op i (groupGet c.lanes f.ty2.bits xs i)) }

/-! ### Meanings -/

/-- VCVT. -/
def execVcvt (f : TR) (s : State) : Out :=
  vecElem f true [] (convJob f (fun _ => []) (fun _ x => convElem f.ty (s.cur.mode f.rm) (elemVal f.ty2 x)) s) id s

/-- VCVT.SR: CTR advances by vl. -/
def execVcvtSr (f : TR) (s : State) : Out :=
  vecElem f true [] (convJob f (fun _ => []) (fun i x => convSr f.ty (s.cur.srWordAt i) (elemVal f.ty2 x)) s)
    Ctx.advanceCtr s

/-- VMXSCALE (R204): scales are written whatever the mask, and at N = 0 every element of rd follows TP; it stops only between blocks (R202), and a resumed one goes on at its
block. -/
def execVmxscale (f : TR) (s : State) : Out :=
  let c := s.cur
  let w := f.ty2.bits
  let n := c.count w
  let mask := s.opM 0 f.vm.toNat
  let a := s.opV 0 f.rs1
  let on := activeElems c.estart n mask
  if c.badMask f.vm.toNat c.estart n || on.any (fun i => c.badPlaces [c.place f.rs1 w i]) then s.poisonV
  else
    let nb := ceilDiv n 32
    let scales (nb : Nat) : List (Nat × Nat) := ((List.range nb).filter fun b => c.estart / 32 ≤ b).map fun b =>
      (b, mxScaleOf f.ty ((on.filter fun i => i / 32 == b).map fun i => elemVal f.ty2 (elemGet c.lanes w a i)))
    let stop := (c.stopAt 32 n).filter fun k =>
      c.splitOk ((List.range (k / 32)).map (c.place f.rd 8)) ((List.range (n - k)).map fun i => c.place f.rs1 w (k + i))
    match stop with
    | some k => s.stopElems k (c.groupVals (c.groupSlots f.rd 1) 8 (scales (k / 32))) 0
    | none => (s.produceMarked (c.groupVals (c.groupSlots f.rd 1) 8 (scales nb ++ tailWrites nb (c.cap 8) f.tp)) 0).retire

/-- VMXQ and VMXQ.SR (R205). -/
def execVmxq (sr : Bool) (f : TR) (s : State) : Out :=
  let c := s.cur
  let sc := s.opV 1 f.rs2
  let job := convJob f (fun i => [c.place f.rs2 8 (i / 32)]) (fun i x =>
    mxQuant f.ty (if sr then some (c.srWordAt i) else none) (elemGet c.lanes 8 sc (i / 32)) (elemVal f.ty2 x)) s
  vecElem f true [] job (if sr then Ctx.advanceCtr else id) s

/-- VMXDQ (R206). -/
def execVmxdq (f : TR) (s : State) : Out :=
  let c := s.cur
  let sc := s.opV 1 f.rs2
  let job := convJob f (fun i => [c.place f.rs2 8 (i / 32)]) (fun i x =>
    mxDequant f.ty f.ty2 (c.mode f.rm) (elemGet c.lanes 8 sc (i / 32)) x) s
  vecElem f true [] job id s

end Sys2Proof.Machine
end

