-- ==== Sys2Proof/Machine/History.lean ====
section
/-! DEFINITION. History streams (04 R81-R101): their descriptors, loads by time and resolution, appends, the Kneader's merges
and expiries, the history instructions (12 R266-R269, R396), `hcfg` (20 R370) and history nodes (12 R270). -/

namespace Sys2Proof.Machine

/-! ### Bytes through captured frames (R84, R90) -/

/-- Bytes at the channel through captured leaves, at most two lines: the value and the VA of the first poisoned line. -/
def State.pageGet (s : State) (pages : List (Nat × Leaf)) (va n : Nat) : Nat × Option Nat :=
  (pieces va n).foldr (fun (q : Nat × Nat) (acc : Nat × Option Nat) =>
    match leafAt pages q.1 with
    | none => (acc.1 * 2 ^ (8 * q.2), acc.2)
    | some l =>
      if l.d then (acc.1 * 2 ^ (8 * q.2), acc.2) else
      let (d, p) := s.dramRead (l.pa q.1 / 128) l.key
      (lineGet d (l.pa q.1 % 128) q.2 + 2 ^ (8 * q.2) * acc.1, if p then some (q.1 / 128 * 128) else acc.2)) (0, none)

/-- The reads of a stream's Kneader meet the errors of the lines (R73, R74). -/
def State.pageMeet (s : State) (pages : List (Nat × Leaf)) (rs : List (Int × Nat)) : State :=
  if s.latent.isEmpty then s else
    (lineVas rs).foldl (fun s va => match leafAt pages va with
      | some l => if l.d then s else s.meet (l.pa va / 128)
      | none => s) s

/-- Bytes written at the channel through captured leaves. DESIGN CHOICE: a page that was captured with D = 1 is written too, although the
history reads of it give zero (R36, R84; log 95). -/
def State.pagePut (s : State) (pages : List (Nat × Leaf)) (va n x : Nat) : State :=
  ((pieces va n).foldl (fun (acc : Nat × State) (q : Nat × Nat) =>
    let s := match leafAt pages q.1 with
      | none => acc.2
      | some l =>
        let pa := l.pa q.1
        (acc.2.dramWrite (pa / 128) l.key (linePut 0 (pa % 128) q.2 acc.1) (byteSpan (pa % 128) q.2) false).noteWrite
          (pa / 128) none
    (acc.1 / 2 ^ (8 * q.2), s)) (x, s)).2

/-! ### Fields of a stream (R81-R83) -/

/-- NLEV. -/
def HStream.nlev (h : HStream) : Nat := bits h.cfg 20 4
/-- ECNT. -/
def HStream.ecnt (h : HStream) : Nat := bits h.cfg 8 9
/-- The item size in bytes. -/
def HStream.isz (h : HStream) : Nat := 64 * 2 ^ bits h.cfg 4 2
/-- EFMT as a type. -/
def HStream.ty (h : HStream) : Ty := (efTy (bits h.cfg 0 4)).getD .i32
/-- The capacity of a level. -/
def HStream.cap (h : HStream) (k : Nat) : Nat := h.caps.getD k 2
/-- The threshold of a level (R83). -/
def HStream.thr (h : HStream) (k : Nat) : Nat := max (h.cap k - 1) 2
/-- The place of the item of level `k` whose span starts at `st` (R83). -/
def HStream.slotVa (h : HStream) (k st : Nat) : Nat :=
  h.lbase.toNat + h.isz * ((h.caps.take k).foldl (· + ·) 0 + (st / 2 ^ k) % h.cap k)

/-- The physical address of a stream's descriptor, which names the stream (R266). -/
def HStream.pa (h : HStream) : Nat := match leafAt h.pages h.va.toNat with
  | some l => l.pa h.va.toNat
  | none => 0

/-- A word of the descriptor as it stands at the channel (R90). DESIGN CHOICE: poison concerns items alone; a descriptor's word in a
poisoned line is read as it stands (log 91). -/
def State.hWord (s : State) (h : HStream) (off n : Nat) : Nat := (s.pageGet h.pages (h.va.toNat + off) n).1
/-- A read of the descriptor's words meets the errors of their line (R73, R74). -/
def State.descMeet (s : State) (h : HStream) : State := s.pageMeet h.pages [(((h.va.toNat + 0xA0 : Nat) : Int), 0x60)]

/-- A word of the descriptor written. -/
def State.hPut (s : State) (h : HStream) (off n x : Nat) : State := s.pagePut h.pages (h.va.toNat + off) n x

/-- HEAD. -/
def State.hHead (s : State) (h : HStream) : Nat := s.hWord h 0xA0 8 % 2 ^ 48
/-- MCNT. -/
def State.hMcnt (s : State) (h : HStream) : Nat := s.hWord h 0xA8 8
/-- HSTATE. -/
def State.hState (s : State) (h : HStream) : Word := BitVec.ofNat 64 (s.hWord h 0xB0 8)
/-- MF. -/
def State.hMf (s : State) (h : HStream) : Bool := (s.hState h).getLsbD 1
/-- NCNT of a level. -/
def State.hCnt (s : State) (h : HStream) (k : Nat) : Nat := s.hWord h (0xC0 + 4 * k) 4

/-- The number of items that have ever entered level `k` (R88). -/
def State.hEver (s : State) (h : HStream) : Nat → Nat
  | 0 => s.hHead h
  | k + 1 => (s.hEver h k - s.hCnt h k) / 2

/-- The start of the oldest item of level `k` (R87). -/
def State.hOldestAt (s : State) (h : HStream) (k : Nat) : Nat := (s.hEver h k - s.hCnt h k) * 2 ^ k

/-- Oldest: the oldest live index (R86). -/
def State.hOldest (s : State) (h : HStream) : Nat := s.hOldestAt h h.nlev

/-- A live item of level `k` starts at `st`. -/
def State.hLive (s : State) (h : HStream) (k st : Nat) : Bool :=
  k ≤ h.nlev && st % 2 ^ k == 0 && s.hOldestAt h k ≤ st && st / 2 ^ k < s.hEver h k

/-- L(t) (R86). -/
def State.hLevel (s : State) (h : HStream) (t : Nat) : Nat :=
  ((List.range 16).find? fun k => s.hLive h k (t / 2 ^ k * 2 ^ k)).getD h.nlev

/-- An item as one number, low byte first, or the VA of its first poisoned line. -/
def State.hItem (s : State) (h : HStream) (k st : Nat) : Except Nat Nat :=
  match s.pageGet h.pages (h.slotVa k st) h.isz with
  | (_, some a) => .error a
  | (x, none) => .ok x

/-- Element `j` of an item (R82). -/
def HStream.elem (h : HStream) (x j : Nat) : Nat := low (x / 2 ^ (h.ty.bits * j)) h.ty.bits

/-- Combine (R87, R91): the combiner over every element, older operand first; `none` where it traps. -/
def HStream.combine (h : HStream) (old new : Nat) : Option Nat :=
  (List.range h.ecnt).foldr (fun j (acc : Option Nat) =>
    match acc, evalPostfix h.ty h.comb h.consts (h.elem old j) (h.elem new j) 0 with
    | some x, some y => some (x * 2 ^ h.ty.bits + y)
    | _, _ => none) (some 0)

/-- V (R91): the node of level `k` that starts at `st`, combined on the fly. -/
def State.hValue (s : State) (h : HStream) : Nat → Nat → Except Nat (Option Nat)
  | 0, st => if s.hLive h 0 st then (s.hItem h 0 st).map some else .ok none
  | k + 1, st =>
    if s.hLive h (k + 1) st then (s.hItem h (k + 1) st).map some
    else match s.hValue h k st with
      | .error a => .error a
      | .ok x => match s.hValue h k (st + 2 ^ k) with
        | .error a => .error a
        | .ok y => match x, y with
          | some a, some b => .ok (h.combine a b)
          | _, _ => .ok none

/-- A fault of a load: its cause and ctl.tval. -/
def histFault (kind : Nat) (tval : Nat) : CauseVal := { code := causeCode 6 5 kind, tval := BitVec.ofNat 64 tval }

/-- HistLoad (R91): the value and hs (R93). The cause of stream misuse names the descriptor (log 19). -/
def State.histLoad (s : State) (h : HStream) (va t res : Nat) : Except CauseVal (Nat × Nat) :=
  if h.nlev < res then .error (histFault 4 va)
  else if s.hHead h ≤ t then .error (histFault 2 va)
  else if t < s.hOldest h then .error (histFault 3 va)
  else
    let lv := s.hLevel h t
    let st := t / 2 ^ res * 2 ^ res
    let poison (a : Nat) : CauseVal := { code := 0x0E8, tval := BitVec.ofNat 64 a }
    let hs (lev finer : Nat) : Nat :=
      (if s.hMf h then 2 ^ 63 else 0) + s.hMcnt h % 1024 * 2 ^ 53 + finer * 2 ^ 52 + lev * 2 ^ 48 + t / 2 ^ lev * 2 ^ lev
    let whole (finer : Nat) : Except CauseVal (Nat × Nat) := match s.hItem h lv (t / 2 ^ lv * 2 ^ lv) with
      | .error a => .error (poison a)
      | .ok x => .ok (x, hs lv finer)
    if res ≤ lv then whole 0
    else if s.hMf h || 3 < res - lv || s.hHead h < st + 2 ^ res then whole 1
    else match s.hValue h res st with
      | .error a => .error (poison a)
      | .ok (some x) => .ok (x, hs res 0)
      | .ok none => whole 1

/-! ### Streams by name -/

/-- The stream that a descriptor's physical address names in a partition (R89, R266). -/
def State.streamAt (s : State) (p pa : Nat) : Option HStream := s.streams.find? fun h => h.part == p && h.pa == pa

/-- A registered stream changed. -/
def State.mapStream (s : State) (h : HStream) (f : HStream → HStream) : State :=
  { s with streams := s.streams.map fun g => if g.part == h.part && g.pa == h.pa then f g else g }

/-- What a descriptor's address names at issue (R266, R396): a stream, none, or the class, kind and ctl.tval that the word faults
with at source 5. -/
inductive Named where
  | stream (h : HStream)
  | none
  | fault (cls kind tval : Nat)
  deriving DecidableEq, Repr

/-- The descriptor's address resolved for the context in focus (R27, R266, R396), with A set where it translates (R21). A poisoned
table entry is named by ctl.tval (R76). -/
def State.nameStream (s : State) (a : Nat) : Named × State :=
  if windowBase ≤ a ∧ a < 2 ^ 55 then (.fault 1 7 a, s)
  else if a % 256 ≠ 0 ∨ 2 ^ 55 ≤ a then (.fault 6 4 a, s)
  else match s.translate s.cur.cluster s.cur.part s.cur.asid a .read with
    | .fault c k e => (if c = 3 then .fault c k (e.getD a) else .fault 6 4 a, s)
    | .leaf l =>
      let s := s.useLeaf s.cur.cluster s.cur.part s.cur.asid a .read l
      match s.streamAt s.cur.part (l.pa a) with
      | some h => (.stream h, s)
      | none => (.none, s)

/-! ### Appends (R86, R97) -/

/-- HSTATE as the Kneader writes it back: VALID = 1, and its reserved bits 0 (R85, R90). -/
def stateKept (st : Word) : Nat := ((st &&& 0xF1FF3) ||| 1).toNat

/-- One item appended: its index is HEAD, its pad zero (R86, R90). -/
def State.append (s : State) (h : HStream) (item : Nat) : State :=
  let t := s.hHead h
  let n := s.hCnt h 0
  let st := s.hState h
  let s := s.pagePut h.pages (h.slotVa 0 t) h.isz (low item (h.ecnt * h.ty.bits))
  let s := s.hPut h 0xA0 8 (low (t + 1) 48)
  let s := s.hPut h 0xC0 4 (n + 1)
  s.hPut h 0xB0 8 (stateKept st)

/-- Level 0 is full (R97). -/
def State.hFull (s : State) (h : HStream) : Bool := h.cap 0 ≤ s.hCnt h 0

/-- An append of a stream waits (R97): its level 0 is full, or an append that came before it is still stalled. DESIGN CHOICE: the stalled
appends of a stream commit in the order in which they came, and a new one behind them all (log 97). -/
def State.hWaits (s : State) (h : HStream) : Bool := s.hFull h || !h.stalled.isEmpty

/-- The stream on which a slot's append is stalled, and the append. -/
def State.stalledOf (s : State) (slot : Nat) : Option (HStream × Stall) :=
  s.streams.findSome? fun h => (h.stalled.find? fun (q : Stall) => q.slot == slot).map fun q => (h, q)

/-- The item that `happ` appends: elements 0 to ECNT - 1 of its source (R267). -/
def State.happItem (s : State) (h : HStream) (rs2 : Reg) : Nat :=
  (List.range h.ecnt).foldr (fun j acc => acc * 2 ^ h.ty.bits + elemGet s.cur.lanes h.ty.bits (s.opV 1 rs2) j) 0

/-- HAPP (R267): it holds issue while its append is stalled (R97), and every fault is taken at its own word (R396). -/
def execHapp (rs1 rs2 : Reg) (s : State) : Out :=
  if s.cur.held && (s.stalledOf s.cur.slot).any (fun r => !r.2.node) then s.hold
  else if s.badS false [rs1] then s.poisonS
  else
    let a := s.opS 0 rs1
    match s.nameStream a.toNat with
    | (.fault c k e, _) => s.fault c 5 k (BitVec.ofNat 64 e)
    | (.none, _) => s.fault 6 5 4 a
    | (.stream h, t) =>
      if s.cur.lanes * 512 / h.ty.bits < h.ecnt then s.fault 6 5 4 a
      else if (List.range h.ecnt).any (s.cur.poisonedV (s.cur.vslot rs2.toNat) h.ty.bits) then s.poisonV
      else if s.hMf h && s.hFull h then (s.descMeet h).fault 6 5 0 a
      else if s.hWaits h then
        let q : Stall := { slot := s.cur.slot, node := false, time := s.time, item := s.happItem h rs2, va := a }
        ((t.descMeet h).mapStream h fun g => { g with stalled := g.stalled ++ [q] }).hold
      else (t.append h (s.happItem h rs2)).retire

/-! ### Loads (R268, R269) -/

/-- The places of the live items that V combines for a node (R91). -/
def State.hNodes (s : State) (h : HStream) : Nat → Nat → List Nat
  | 0, st => if s.hLive h 0 st then [h.slotVa 0 st] else []
  | k + 1, st =>
    if s.hLive h (k + 1) st then [h.slotVa (k + 1) st] else s.hNodes h k st ++ s.hNodes h k (st + 2 ^ k)

/-- The items that a load reads (R91), as runs of bytes. -/
def State.hReads (s : State) (h : HStream) (t res : Nat) : List (Int × Nat) :=
  let lv := s.hLevel h t
  let st := t / 2 ^ res * 2 ^ res
  let vas := if res ≤ lv || s.hMf h || 3 < res - lv || s.hHead h < st + 2 ^ res then [h.slotVa lv (t / 2 ^ lv * 2 ^ lv)]
    else s.hNodes h res st
  vas.map fun (a : Nat) => ((a : Int), h.isz)

/-- hs as a result of its load (R93). -/
def hsVal (x : Nat) : RegVal := { reg := .c 7, val := x }

/-- A history load of the context in focus: what it delivers or the cause found when its data return (R396). `more` is the
instruction's own check, and `main` its destination from the item. -/
def histRead (rs1 rs2 : Reg) (res : Nat) (more : HStream → Bool) (main : HStream → Nat → RegVal) (dst : RegVal)
    (s : State) : Out :=
  if s.badS false [rs1, rs2] then s.poisonS
  else
    let a := s.opS 0 rs1
    let t := s.opS 1 rs2
    let late (cv : CauseVal) : Out := s.produceLate [dst, hsVal 0] cv [a, t]
    match s.nameStream a.toNat with
    | (.fault c k e, _) => s.fault c 5 k (BitVec.ofNat 64 e)
    | (.none, _) => late (histFault 4 a.toNat)
    | (.stream h, s') =>
      let rs := s.hReads h t.toNat res
      let met (u : State) : State := (u.descMeet h).pageMeet h.pages rs
      let s' := met s'
      if !more h then late (histFault 4 a.toNat)
      else match s'.histLoad h a.toNat t.toNat res with
        | .error cv => (met s).produceLate [dst, hsVal 0] cv [a, t]
        | .ok (x, hs) => ((s'.countDiscarded s.cur.part (discardedRuns h.pages rs)).produceVar [main h x, hsVal hs] 0 none [a, t]).retire

/-- Element `e` as a scalar (R268). -/
def HStream.elemWord (h : HStream) (x e : Nat) : Word :=
  if h.ty = .i32 ∨ h.ty = .i16 ∨ h.ty = .i8 then sextWord h.ty.bits (h.elem x e) else BitVec.ofNat 64 (h.elem x e)

/-- HLD. -/
def execHld (rd rs1 rs2 : Reg) (res : BitVec 4) (e : BitVec 8) (s : State) : Out :=
  histRead rs1 rs2 res.toNat (fun h => e.toNat < h.ecnt)
    (fun h x => { reg := .s rd.toNat, val := (h.elemWord x e.toNat).toNat }) { reg := .s rd.toNat, val := 0 } s

/-- HLDV. -/
def execHldv (rd rs1 rs2 : Reg) (res : BitVec 4) (s : State) : Out :=
  let c := s.cur
  let n := c.vslot rd.toNat
  histRead rs1 rs2 res.toNat (fun h => h.ecnt ≤ c.lanes * 512 / h.ty.bits)
    (fun h x =>
      let w := h.ty.bits
      let is := List.range (c.lanes * 512 / w)
      let v := is.foldl (fun (v : BitVec 16384) j => elemSet c.lanes w v j (if j < h.ecnt then h.elem x j else 0)) (c.v.getD n 0)
      { reg := .v n, val := v.toNat, marks := c.marksAfter n w is, hit := hitGranules c.lanes w is }) { reg := .v n, val := 0 } s

/-- HSTAT (R269): it does not write hs. -/
def execHstat (rd rs1 : Reg) (sel : BitVec 2) (lev : BitVec 4) (s : State) : Out :=
  if s.badS false [rs1] then s.poisonS
  else
    let a := s.opS 0 rs1
    let late : Out := s.produceLate [{ reg := .s rd.toNat, val := 0 }] (histFault 4 a.toNat) [a]
    match s.nameStream a.toNat with
    | (.fault c k e, _) => s.fault c 5 k (BitVec.ofNat 64 e)
    | (.none, _) => late
    | (.stream h, s') =>
      if sel = 3 ∧ h.nlev < lev.toNat then late
      else
        let x := match sel.toNat with
          | 0 => s.hHead h
          | 1 => s.hMcnt h
          | 2 => (s.hState h).toNat
          | _ => s.hCnt h lev.toNat
        ((s'.descMeet h).produceVar [{ reg := .s rd.toNat, val := x }] 0 none [a]).retire

/-! ### Registration, restart, retirement (R84, R101, R370) -/

/-- The fields that the program writes meet R81 to R83, HEAD those of a descriptor with VALID = 1, and the combiner R322. `x` is the
descriptor as one number. -/
def descOk (x : Nat) : Bool :=
  let d : BitVec 2048 := BitVec.ofNat 2048 x
  let cfg : Word := BitVec.ofNat 64 (bits d 0 64)
  let w := ((efTy (bits cfg 0 4)).getD .i32).bits
  let clen := bits cfg 24 5
  let expr := (List.range clen).map fun k => BitVec.ofNat 8 (bits d (8 * (0x60 + k)) 8)
  bits cfg 29 35 == 0 && bits cfg 17 3 == 0 && bits cfg 6 2 == 0 && bits cfg 4 2 != 3 && (efTy (bits cfg 0 4)).isSome
    && 1 ≤ clen && clen ≤ 24 && 1 ≤ bits cfg 8 9 && bits cfg 8 9 ≤ 256
    && bits cfg 8 9 * w ≤ 512 * 2 ^ bits cfg 4 2
    && bits d 64 64 % 256 == 0 && bits d (64 + 55) 9 == 0
    && (!d.getLsbD (8 * 0xB0) || bits d (8 * 0xA0 + 48) 16 == 0)
    && bits d (8 * 0x18) 64 == 0 && bits d (8 * 0x78) 64 == 0 && bits d (8 * 0x90) 128 == 0
    && (List.range (bits cfg 20 4 + 1)).all (fun k =>
      let c := bits d (8 * 0x20 + 32 * k) 32
      c % 2 == 0 && 2 ≤ c && c ≤ 65536)
    && postfixOk ((efTy (bits cfg 0 4)).getD .i32) expr && !expr.contains 3

/-- The pages that `n` bytes from `va` touch. -/
def spanPages (va n : Nat) : List Nat :=
  (List.range ((va + n - 1) / 65536 + 1 - va / 65536)).map fun k => va / 65536 + k

/-- The leaves of pages for a memory-side unit (R84, R327): the pages captured, or the first that fails, as class and kind;
`ok` is the unit's own check of a leaf, and its failure class 2, kind 3. -/
def State.capture (s : State) (p asid : Nat) (acc : Acc) (ok : Leaf → Bool) :
    List Nat → Except Failed (List (Nat × Leaf))
  | [] => .ok []
  | pg :: r =>
    match s.agentLeaf sysAgent p asid (65536 * pg) acc with
    | .error (.fault c k e) => .error (Failed.at_ (65536 * pg) c k e)
    | .error .wait => .error (1, 3, 65536 * pg)
    | .ok l =>
      if !ok l then .error (2, 3, 65536 * pg)
      else (s.capture p asid acc ok r).map fun rest => (pg, l) :: rest

/-- A leaf is a fast-tier page with CA = 10 (R23, R29). -/
def memorySide (l : Leaf) : Bool := region (65536 * l.frame) == .fast && l.ca == 2

/-- The bytes of the level storage (R83). -/
def levelBytes (isz : Nat) (caps : List Nat) : Nat := isz * caps.foldl (· + ·) 0

/-- A descriptor as a stream, before its frames are known. DESIGN CHOICE: HNODE is read at the registration, as the words that R90
lists are (log 91). -/
def streamOfDesc (va : Word) (p asid : Nat) (x : Nat) : HStream :=
  let d : BitVec 2048 := BitVec.ofNat 2048 x
  let cfg : Word := BitVec.ofNat 64 (bits d 0 64)
  let caps := (List.range (bits cfg 20 4 + 1)).map fun k => bits d (8 * 0x20 + 32 * k) 32
  let comb := (List.range (bits cfg 24 5)).map fun k => BitVec.ofNat 8 (bits d (8 * (0x60 + k)) 8)
  let ks := (List.range 4).map fun k => BitVec.ofNat 32 (bits d (8 * 0x80 + 32 * k) 32)
  { va := va, part := p, asid := asid, stack := 0, cfg := cfg, lbase := BitVec.ofNat 64 (bits d 64 64),
    hnode := BitVec.ofNat 64 (bits d 128 64), caps := caps, comb := comb, consts := ks, pages := [] }

/-- A stream as registration leaves it (R84): it resumes from its descriptor, or starts empty. -/
def State.startStream (s : State) (h : HStream) : State :=
  let s := { s with streams := s.streams ++ [h] }
  if (s.hState h).getLsbD 0 then s
  else
    let s := (s.hPut h 0xA0 8 0).hPut h 0xA8 8 0
    let s := (s.hPut h 0xB0 8 1).hPut h 0xB8 8 0
    (List.range 16).foldl (fun s k => s.hPut h (0xC0 + 4 * k) 4 0) s

/-- The time from which the stream of a descriptor may commit, where it was registered before (R94). -/
def State.commitOf (s : State) (pa : Nat) : Nat := ((s.commits.find? fun e => e.1 == pa).map (·.2)).getD 0

/-- The cause of a registration whose pages cannot be captured: a window address (R27) or a poisoned table entry (R76) is named as such,
and any other page is one that R84 does not allow. -/
def State.captureFault (s : State) (a : Word) (e : Failed) : Out :=
  if e.1 = 3 ∨ (e.1 = 1 ∧ e.2.1 = 7) then s.fault e.1 5 e.2.1 (BitVec.ofNat 64 e.2.2)
  else (s.walkMet s.cur.part s.cur.asid e.2.2).fault 6 5 4 a

/-- HCFG with action 0 (R84, R370): 0x1AC unless every condition of R84 holds. A page that the stager is moving makes it wait, for the
stream keeps its frame (R84). From then on the Kneader writes the pages: DT is set with A (R21). -/
def execHcfgRegister (rs1 : Reg) (s : State) : Out :=
  if !s.cur.super then s.faultOpen 0 0 3
  else if s.badS false [rs1] then s.poisonS
  else
    let a := s.opS 0 rs1
    let p := s.cur.part
    let asid := s.cur.asid
    let misuse : Out := s.fault 6 5 4 a
    if windowBase ≤ a.toNat ∧ a.toNat < 2 ^ 55 then s.fault 1 5 7 a
    else if a.toNat % 256 ≠ 0 then misuse
    else match s.capture p asid .read memorySide (spanPages a.toNat 256) with
      | .error e => s.captureFault a e
      | .ok dp =>
        let s := s.pageMeet dp [((a.toNat : Int), 256)]
        let misuse : Out := s.fault 6 5 4 a
        match s.pageGet dp a.toNat 128, s.pageGet dp (a.toNat + 128) 128 with
        | (_, some e), _ => s.fault 3 5 0 (BitVec.ofNat 64 e)
        | _, (_, some e) => s.fault 3 5 0 (BitVec.ofNat 64 e)
        | (x, none), (y, none) =>
          let h := streamOfDesc a p asid (x + 2 ^ 1024 * y)
          let n := levelBytes h.isz h.caps
          if windowBase ≤ h.lbase.toNat ∧ h.lbase.toNat < 2 ^ 55 then s.fault 1 5 7 h.lbase
          else if !descOk (x + 2 ^ 1024 * y) then misuse
          else match s.capture p asid .read memorySide (spanPages h.lbase.toNat n) with
            | .error e => s.captureFault a e
            | .ok lp =>
              let pages := dp ++ lp
              let stks := (pages.map fun q => stackOf (q.2.pa (65536 * q.1))).eraseDups
              let h := { h with pages := pages, stack := stks.headD 0 }
              let h := { h with commit := s.commitOf h.pa }
              if stks.length ≠ 1 ∨ 256 ≤ (s.streams.filter fun g => g.stack == h.stack).length
                  ∨ (s.streams.any fun g => g.pa == h.pa) then misuse
              else if pages.any fun q => q.2.m then s.hold
              else ((s.usePages p asid .write pages).startStream h).retire

/-- HCFG with action 1 (R101, R370): COMB and K0 to K3 are read again, and a merge-faulted stream retries its merge. -/
def execHcfgRestart (rs1 : Reg) (s : State) : Out :=
  if !s.cur.super then s.faultOpen 0 0 3
  else if s.badS false [rs1] then s.poisonS
  else
    let a := s.opS 0 rs1
    match s.nameStream a.toNat with
    | (.fault c k e, _) => s.fault c 5 k (BitVec.ofNat 64 e)
    | (.none, _) => s.fault 6 5 4 a
    | (.stream h, t) =>
      let t := t.pageMeet h.pages [(((h.va.toNat + 0x60 : Nat) : Int), 48)]
      let s := s.pageMeet h.pages [(((h.va.toNat + 0x60 : Nat) : Int), 48)]
      match s.pageGet h.pages (h.va.toNat + 0x60) 32, s.pageGet h.pages (h.va.toNat + 0x80) 16 with
      | (_, some e), _ => s.fault 3 5 0 (BitVec.ofNat 64 e)
      | _, (_, some e) => s.fault 3 5 0 (BitVec.ofNat 64 e)
      | (x, none), (y, none) =>
        let comb := toBytes (bits h.cfg 24 5) x
        let ks := (List.range 4).map fun k => BitVec.ofNat 32 (y / 2 ^ (32 * k))
        if !postfixOk h.ty comb || comb.contains 3 then s.fault 6 5 4 a
        else
          let st := s.hState h
          let again := if st.getLsbD 1 then some (bits st 16 4) else h.retry
          let t := t.mapStream h fun g => { g with comb := comb, consts := ks, retry := again }
          (if st.getLsbD 1 then t.hPut h 0xB0 8 (stateKept (setBits st 0 2 1)) else t).retire

/-- A stream leaves its Kneader (R97, R101): the contexts whose appends it stalled take class 6, kind 4 at their `happ`. -/
def State.retireStream (s : State) (h : HStream) : State :=
  let s := s.hPut h 0xB0 8 (stateKept (s.hState h))
  let s := { s with streams := s.streams.filter fun g => !(g.part == h.part && g.pa == h.pa)
                    commits := (h.pa, h.commit) :: s.commits.filter fun e => e.1 != h.pa }
  h.stalled.foldl (fun s (q : Stall) =>
    if q.node then s.retireNode q.slot 2 0x1AC (BitVec.ofNat 64 (match s.node q.slot with
      | some n => n.prog
      | none => 0)) 0 true
    else s.post q.slot { code := 0x1AC, tval := q.va, unit := 6 }) s

/-- HCFG with action 2 (R101, R370). -/
def execHcfgRetire (rs1 : Reg) (s : State) : Out :=
  if !s.cur.super then s.faultOpen 0 0 3
  else if s.badS false [rs1] then s.poisonS
  else
    let a := s.opS 0 rs1
    match s.nameStream a.toNat with
    | (.fault c k e, _) => s.fault c 5 k (BitVec.ofNat 64 e)
    | (.none, _) => s.fault 6 5 4 a
    | (.stream h, t) => (t.retireStream h).retire

/-! ### The Kneader (R87, R94-R100) -/

/-- Level `k` is pending (R87). -/
def State.hPending (s : State) (h : HStream) (k : Nat) : Bool := h.thr k ≤ s.hCnt h k

/-- The level that the stream's next action takes (R96, R101): the one to retry, or the highest pending one. -/
def State.hNext (s : State) (h : HStream) : Option Nat :=
  match h.retry with
  | some k => some k
  | none => ((List.range (h.nlev + 1)).reverse).find? (s.hPending h)

/-- The oldest stalled append of a stream. -/
def HStream.since (h : HStream) : Option Nat := (h.stalled.map Stall.time).min?

/-- The stream has a forced action (R96): an append is stalled on it, and level 0 has no room for it yet (R97). -/
def State.hForced (s : State) (h : HStream) : Bool := !h.stalled.isEmpty && s.hFull h && !s.hMf h && (s.hNext h).isSome

/-- The channel that a stream's item at `va` lies on (R96). DESIGN CHOICE: of an item of two lines, that of the first (log 95). -/
def HStream.channel (h : HStream) (va : Nat) : Nat := match leafAt h.pages va with
  | some l => sliceOf (l.pa va / 128)
  | none => 0

/-- The channel that the stream's next action is charged to (R96): that of the new item of a merge; for an expiry the descriptor's
(log 20). -/
def State.hChannel (s : State) (h : HStream) : Nat :=
  match s.hNext h with
  | some k => if k = h.nlev then h.channel h.va.toNat else h.channel (h.slotVa (k + 1) (s.hOldestAt h k))
  | none => 0

/-- An ordinary action of the stream is ready (R94, R96): its channel has credit, and its spacing has passed. None comes before a stalled
append that level 0 has room for (R97). -/
def State.hReady (s : State) (h : HStream) : Bool :=
  !s.hMf h && h.stalled.isEmpty && (s.hNext h).isSome && h.commit ≤ s.time && s.mayWork (s.hChannel h) .knead

/-- The Kneader takes the stream next (R94, R96): forced streams come first, in the order of their oldest stalled append; the ordinary
ones follow in round robin, which the list of streams keeps: the one served last stands behind the others. -/
def State.hMay (s : State) (h : HStream) : Bool :=
  let rivals := s.streams.filter fun g => g.stack == h.stack && g.pa != h.pa
  let forced := rivals.filter s.hForced
  if s.hForced h then h.commit ≤ s.time && forced.all fun g => h.since.getD 0 ≤ g.since.getD 0
  else s.hReady h && forced.isEmpty
    && (s.streams.takeWhile fun g => g.pa != h.pa).all fun g => g.stack != h.stack || !s.hReady g

/-- A commit counted (R87, R90, R94); the stream has had its turn (R96). -/
def State.hCommit (s : State) (h : HStream) : State :=
  let st := s.hState h
  let m := s.hMcnt h
  let s := (s.hPut h 0xA8 8 (low (m + 1) 64)).hPut h 0xB0 8 (stateKept st)
  let mine (g : HStream) : Bool := g.part == h.part && g.pa == h.pa
  { s with streams := (s.streams.filter fun g => !mine g)
      ++ (s.streams.filter mine).map fun (g : HStream) => { g with commit := s.time + 32, retry := none } }

/-- A failed merge (R98-R100): nothing commits, the stream is merge-faulted, and its fault is posted. DESIGN CHOICE: HNODE is a VA of the
address space that the stream was registered in, and its node runs there (log 97). -/
def State.mergeFault (s : State) (h : HStream) (k st code : Nat) : State :=
  let s := s.hPut h 0xB0 8 (k * 2 ^ 16 + code * 16 + 3)
  let s := s.hPut h 0xB8 8 st
  let s := s.mapStream h fun g => { g with retry := none, stalled := [] }
  let s := h.stalled.foldl (fun s (q : Stall) =>
    if q.node then s.retireNode q.slot 2 0x1A8 (BitVec.ofNat 64 (match s.node q.slot with
      | some n => n.prog
      | none => 0)) 0 true
    else s.post q.slot { code := 0x1A8, tval := q.va, unit := 6 }) s
  let logged (s : State) : State := s.logEvent code h.pa h.part 1 2
  if h.hnode = 0 then logged s
  else match s.submit h.part h.asid h.hnode with
    | .ok s => s
    | .error e => logged (s.submitMet h.part h.asid h.hnode 128 e)

/-- A merge at level `k` (R87): the two oldest items combine into one of level `k + 1`. DESIGN CHOICE: one that fails, and so forms no
new item, is charged to no channel (R96, R350; log 95). -/
def State.merge (s : State) (h : HStream) (k : Nat) : State :=
  let st := s.hOldestAt h k
  let rs : List (Int × Nat) := [st, st + 2 ^ k].map fun (x : Nat) => ((h.slotVa k x : Int), h.isz)
  let s := (s.pageMeet h.pages rs).countDiscarded h.part (discardedRuns h.pages rs)
  match s.hItem h k st, s.hItem h k (st + 2 ^ k) with
  | .ok x, .ok y =>
    match h.combine x y with
    | none => s.mergeFault h k st 0x1A9
    | some z =>
      let n := s.hCnt h k
      let m := s.hCnt h (k + 1)
      let s := s.charge (h.channel (h.slotVa (k + 1) st)) .knead (3 * ceilDiv h.isz 128 + 1)
      let s := s.pagePut h.pages (h.slotVa (k + 1) st) h.isz z
      let s := (s.hPut h (0xC0 + 4 * k) 4 (n - 2)).hPut h (0xC0 + 4 * (k + 1)) 4 (m + 1)
      s.hCommit h
  | _, _ => s.mergeFault h k st 0x0E8

/-- A stream by its descriptor's physical address. -/
def State.streamPa (s : State) (pa : Nat) : Option HStream := s.streams.find? fun h => h.pa == pa

/-- KNEADER_MERGE (R87, R96): where the Kneader may not take this merge now, nothing happens. -/
def execKneaderMerge (desc level : Nat) (s : State) : Out :=
  match s.streamPa desc with
  | none => .next s
  | some h =>
    if s.hNext h = some level ∧ level < h.nlev ∧ s.hCnt h (level + 1) < h.cap (level + 1) ∧ s.hMay h then
      .next (s.merge h level)
    else .next s

/-- KNEADER_EXPIRE (R87, R96): the two oldest items of the top level expire; the line is charged to the descriptor's
channel (log 20). -/
def execKneaderExpire (desc : Nat) (s : State) : Out :=
  match s.streamPa desc with
  | none => .next s
  | some h =>
    if s.hNext h = some h.nlev ∧ s.hMay h then
      let n := s.hCnt h h.nlev
      .next (((s.charge (s.hChannel h) .knead 1).hPut h (0xC0 + 4 * h.nlev) 4 (n - 2)).hCommit h)
    else .next s

/-- A history node retires with its count of items (R157, R270). -/
def State.endHistory (s : State) (n : Node) (st code : Nat) : State :=
  s.retireNode n.slot st code (BitVec.ofNat 64 n.prog) 0 true

/-- An item of a history node has committed (R270): the node completes with its last one. -/
def State.itemDone (s : State) (slot : Nat) : State :=
  match s.node slot with
  | none => s
  | some n =>
    let n := { n with prog := n.prog + 1 }
    if n.hist.any fun r => r.cnt ≤ n.prog then (s.mapNode slot fun _ => n).endHistory n 1 0 else s.mapNode slot fun _ => n

/-- STALLED_APPEND_COMMIT (R97): the oldest stalled append of its stream commits once level 0 has room, and its context goes
on after the `happ`, or its history node with the next item, or ends after its last. -/
def execStalledAppendCommit (slot : Nat) (s : State) : Out :=
  match s.stalledOf slot with
  | none => .next s
  | some (h, q) =>
    if s.hFull h ∨ h.stalled.head? ≠ some q then .next s
    else
      let s := (s.append h q.item).mapStream h fun g => { g with stalled := g.stalled.filter (· != q) }
      if q.node then .next (s.itemDone slot) else .next (s.mapCtx slot Ctx.advance)

/-! ### History nodes (R270) -/

/-- The block of a history node (R270): descriptor, source and count, or the cause of its fault. -/
def State.histBlock (s : State) (n : Node) : Except Nat (List Word × State) :=
  match s.agentWords sysAgent n.part n.asid (wordAt n.words 1).toNat 4 with
  | .error (c, k, _) => .error (causeCode c 5 k)
  | .ok (ws, s) =>
    let cnt := (wordAt ws 2).toNat
    if wordAt ws 3 ≠ 0 ∨ cnt = 0 ∨ 65536 < cnt then .error 0x1AC
    else .ok (ws, s)

/-- The stream of a history node's block (R270); a poisoned table entry is a cause of its own (R76). -/
def State.nodeStream (s : State) (n : Node) (a : Nat) : Except Nat HStream :=
  if windowBase ≤ a ∧ a < 2 ^ 55 then .error (causeCode 1 5 7)
  else if a % 256 ≠ 0 then .error 0x1AC
  else match s.agentLeaf sysAgent n.part n.asid a .read with
    | .error (.fault 3 k _) => .error (causeCode 3 5 k)
    | .error _ => .error 0x1AC
    | .ok l => match s.streamAt n.part (l.pa a) with
      | some h => .ok h
      | none => .error 0x1AC

/-- A history node's descriptor page is used (R21). -/
def State.nodeUses (s : State) (n : Node) (a : Nat) : State :=
  match s.agentLeaf sysAgent n.part n.asid a .read with
  | .ok l => s.useLeaf sysAgent n.part n.asid a .read l
  | .error _ => s

/-- A history node takes up its run (R270): it reads its block and finds its stream, once, before any item; or the cause of its
fault. -/
def State.openRun (s : State) (n : Node) : Except Nat HistRun × State :=
  match s.histBlock n with
  | .error e => (.error e, s.agentMet n.part n.asid (wordAt n.words 1).toNat 32)
  | .ok (ws, s) =>
    let a := (wordAt ws 0).toNat
    let src := (wordAt ws 1).toNat
    if windowed src then (.error (causeCode 1 5 7), s)
    else match s.nodeStream n a with
      | .error e => (.error e, if a % 256 = 0 then s.walkMet n.part n.asid a else s)
      | .ok h =>
        let s := s.nodeUses n a
        if src % h.isz ≠ 0 then (.error 0x1AC, s)
        else (.ok { desc := h.pa, src := src, cnt := (wordAt ws 2).toNat }, s)

/-- The next item of a history node's run (R270): read and appended, or it stalls or faults as R97 says. A stream that has been retired
takes no more (R101). -/
def State.nextItem (s : State) (n : Node) (r : HistRun) : State :=
  match s.streamAt n.part r.desc with
  | none => s.endHistory n 2 0x1AC
  | some h =>
    let va := r.src + n.prog * h.isz
    if windowed va then s.endHistory n 2 (causeCode 1 5 7)
    else if s.hMf h && s.hFull h then s.endHistory n 2 0x1A8
    else match s.agentGet sysAgent n.part n.asid va h.isz with
      | .error e => (s.agentMet n.part n.asid va h.isz).endHistory n 2 (causeCode e.1 5 e.2.1)
      | .ok (x, s) =>
        let s := s.countIn sysAgent n.part n.asid (if va % 128 = 0 ∨ n.prog = 0 then [(va, h.isz)] else [])
        if s.hWaits h then
          let q : Stall := { slot := n.slot, node := true, time := s.time, item := x }
          (s.descMeet h).mapStream h fun g => { g with stalled := g.stalled ++ [q] }
        else (s.append h x).itemDone n.slot

/-- HISTORY_NODE_APPEND (R270): the node takes up its run, if it has not yet, and appends the next item of it. -/
def execHistoryNodeAppend (slot : Nat) (s : State) : Out :=
  match s.node slot with
  | none => .next s
  | some n =>
    if !(n.stat == .engine && recKind n.words == 4) || (s.stalledOf slot).isSome then .next s
    else match n.hist with
      | some r => .next (s.nextItem n r)
      | none => match s.openRun n with
        | (.error e, s) => .next (s.endHistory n 2 e)
        | (.ok r, s) => .next ((s.mapNode slot fun m => { m with hist := some r }).nextItem { n with hist := some r } r)

end Sys2Proof.Machine
end

