-- ==== Sys2Proof/Machine/Pool.lean ====
section
/-! DEFINITION. Pools and KV chains (12 R271-R274). Each operation is one event at its pool engine, which reads and writes at
homes (05 R124). -/

namespace Sys2Proof.Machine

/-- Why a pool operation does not happen: its cause and ctl.tval. Causes of translation, of permission and of a malformed operand,
descriptor or anchor stop the word at issue; poison, an empty pool and a full one are found when data return (R169, R274). -/
structure PoolStop where
  issue : Bool
  cls   : Nat
  kind  : Nat
  addr  : Nat
  deriving DecidableEq, Repr

/-- What a pool operation answers: a cause, a wait for a page that is being moved (`none`, R35), or its result. -/
abbrev PoolAns := Except (Option PoolStop)

/-- A cause found at issue, and one found when data return. -/
def PoolStop.now (c k a : Nat) : Option PoolStop := some { issue := true, cls := c, kind := k, addr := a }

def PoolStop.late (c k a : Nat) : Option PoolStop := some { issue := false, cls := c, kind := k, addr := a }

/-- A page of a descriptor, an entry array or an anchor: fast-tier with CA = 10 (R271), or its cause. -/
def State.poolLeaf (s : State) (va : Nat) (acc : Acc) : PoolAns Leaf :=
  match s.agentLeaf sysAgent s.cur.part s.cur.asid va acc with
  | .error .wait => .error none
  | .error (.fault c k e) => .error (PoolStop.now c k (e.getD va))
  | .ok l => if region (65536 * l.frame) == .fast && l.ca == 2 then .ok l else .error (PoolStop.now 2 3 va)

/-- Eight bytes of a memory-side page, for read and, where `acc` is a write, for the write that follows. -/
def State.poolWord (s : State) (va : Nat) (acc : Acc) : PoolAns (Nat × State) :=
  match s.poolLeaf va .read with
  | .error e => .error e
  | .ok _ => match s.poolLeaf va acc with
    | .error e => .error e
    | .ok l =>
      let s := s.useLeaf sysAgent s.cur.part s.cur.asid va acc l
      let ((x, bad), s) := s.leafRead sysAgent l va 8
      if bad then .error (PoolStop.late 3 0 (va / 128 * 128)) else .ok (x, s)

/-- `n` consecutive words of a record in one memory-side page. -/
def State.poolWords (s : State) (acc : Acc) : Nat → Nat → PoolAns (List Nat × State)
  | _, 0 => .ok ([], s)
  | va, n + 1 => match s.poolWord va acc with
    | .error e => .error e
    | .ok (x, s) => match s.poolWords acc (va + 8) n with
      | .error e => .error e
      | .ok (r, s) => .ok (x :: r, s)

/-- The eight words of a descriptor or an anchor, which the operation also writes. A misaligned one is a malformed operand, once its
page is one that the operation may use (R169, R273). -/
def State.poolRecord (s : State) (va : Nat) : PoolAns (List Nat × State) :=
  match s.poolLeaf va .read with
  | .error e => .error e
  | .ok _ => if va % 64 ≠ 0 then .error (PoolStop.now 6 7 va) else s.poolWords .write va 8

/-- Bytes written at their home through a page that the operation has checked. -/
def State.poolPut (s : State) (va n x : Nat) : State :=
  match s.agentPut sysAgent s.cur.part s.cur.asid va n x with
  | .ok s => s
  | .error _ => s

/-- A pool descriptor as its eight words say it (R271): PARR, PCAP and PCNT, or a malformed descriptor. -/
def poolFields (va : Nat) (ws : List Nat) : PoolAns (Nat × Nat × Nat) :=
  let parr := ws.getD 0 0
  let cap := ws.getD 1 0
  let cnt := ws.getD 2 0
  if windowed parr then .error (PoolStop.now 1 7 parr)
  else if parr % 8 ≠ 0 ∨ 2 ^ 32 ≤ cap ∨ cap = 0 ∨ 2 ^ 32 ≤ cnt ∨ cap < cnt ∨ (ws.drop 3).any (· != 0) then
    .error (PoolStop.now 6 7 va)
  else .ok (parr, cap, cnt)

/-- A pool's descriptor read and checked. -/
def State.poolOpen (s : State) (va : Nat) : PoolAns ((Nat × Nat × Nat) × State) :=
  match s.poolRecord va with
  | .error e => .error e
  | .ok (ws, s) => (poolFields va ws).map fun f => (f, s)

/-- An entry popped (R273): the entry and the state after. -/
def State.poolTake (s : State) (va : Nat) : PoolAns (Nat × State) :=
  match s.poolOpen va with
  | .error e => .error e
  | .ok ((parr, _, cnt), s) =>
    if cnt = 0 then .error (PoolStop.late 6 5 va)
    else
      let e := parr + 8 * (cnt - 1)
      match s.poolWord e .read with
      | .error e => .error e
      | .ok (x, s) => .ok (x, (s.countIn sysAgent s.cur.part s.cur.asid [(e, 8)]).poolPut (va + 0x10) 8 (cnt - 1))

/-- An entry pushed (R273). -/
def State.poolGive (s : State) (va x : Nat) : PoolAns State :=
  match s.poolOpen va with
  | .error e => .error e
  | .ok ((parr, cap, cnt), s) =>
    if cnt = cap then .error (PoolStop.late 6 6 va)
    else match s.poolLeaf (parr + 8 * cnt) .write with
      | .error e => .error e
      | .ok _ => .ok ((s.poolPut (parr + 8 * cnt) 8 x).poolPut (va + 0x10) 8 (cnt + 1))

/-- A page of a chain as KVAPP writes its header: a window is no page of a chain, and one that does not translate writable is
reported as class 6, kind 7 (R273), but a poisoned table entry as such (R76). -/
def State.chainPage (s : State) (va : Nat) : PoolAns Unit :=
  if windowed va then .error (PoolStop.now 1 7 va)
  else match s.agentLeaf sysAgent s.cur.part s.cur.asid va .write with
    | .error .wait => .error none
    | .error (.fault c k e) => .error (if c = 3 then PoolStop.now c k (e.getD va) else PoolStop.now 6 7 va)
    | .ok _ => .ok ()

/-- The header of the popped page `p` and of the tail that is linked to it (R272, R273): the state after, with the page as the
chain's tail. -/
def State.chainLink (s : State) (va tail p : Nat) : PoolAns State :=
  if p % 65536 ≠ 0 ∧ !windowed p then .error (PoolStop.now 6 7 p)
  else match s.chainPage p with
    | .error e => .error e
    | .ok _ => match if tail = 0 then .ok () else s.chainPage tail with
      | .error e => .error e
      | .ok _ =>
        let s := s.poolPut p 8 0
        let s := if tail ≠ 0 then s.poolPut tail 8 (bits (BitVec.ofNat 64 p) 16 39 * 65536 + 1) else s.poolPut va 8 p
        .ok (s.poolPut (va + 8) 8 p)

/-- KVAPP's event at its pool engine (R273): the slot and the state after. -/
def State.kvAppend (s : State) (va : Nat) : PoolAns (Nat × State) :=
  match s.poolRecord va with
  | .error e => .error e
  | .ok (ws, s) =>
    let head := ws.getD 0 0
    let tail := ws.getD 1 0
    let ntok := ws.getD 2 0
    let ks := ws.getD 3 0
    let pool := ws.getD 4 0
    let slot := ks % 65536
    let used := ks / 65536 % 65536
    let cap := if slot = 0 then 0 else 65408 / slot
    if windowed pool ∧ (tail = 0 ∨ slot ≠ 0 ∧ used = cap) then .error (PoolStop.now 1 7 pool)
    else if windowed tail ∧ slot ≠ 0 ∧ used = cap then .error (PoolStop.now 1 7 tail)
    else if head % 65536 ≠ 0 ∨ tail % 65536 ≠ 0 ∨ 2 ^ 48 ≤ ntok ∨ 2 ^ 32 ≤ ks ∨ (ws.drop 5).any (· != 0) ∨ pool % 64 ≠ 0
        ∨ slot % 64 ≠ 0 ∨ slot < 64 ∨ 65408 < slot ∨ cap < used then .error (PoolStop.now 6 7 va)
    else
      let done (s : State) (tail used : Nat) : Nat × State :=
        (tail + 128 + used * slot,
         (s.poolPut (va + 0x10) 8 (low (ntok + 1) 48)).poolPut (va + 0x18) 8 (slot + 65536 * (used + 1)))
      if tail = 0 ∨ used = cap then
        match s.poolTake pool with
        | .error e => .error e
        | .ok (p, t) => match t.chainLink va tail p with
          | .error e => .error e
          | .ok t => .ok (done t p 0)
      else .ok (done s tail used)

/-- What a pool operation on the record at `a` has met that came to a cause (R73, R74), beside what the cause itself says. -/
def State.poolSeen (s : State) (a : Nat) (e : PoolStop) : State :=
  let p := s.cur.part
  let asid := s.cur.asid
  let own := a ≤ e.addr && e.addr < a + 64
  let t := if own && e.cls != 6 then s else s.agentMet p asid a 64
  if e.cls = 6 then if own then t else t.walkMet p asid e.addr
  else t

/-- A pool operation on the record at `a` that gives a register: its cause at issue, its cause when data return, or its result (R169). -/
def poolResult (rd : Reg) (a : Word) (r : PoolAns (Nat × State)) (s : State) : Out :=
  match r with
  | .error none => s.hold
  | .error (some e) =>
    let t := s.poolSeen a.toNat e
    if e.issue then t.fault e.cls 6 e.kind (BitVec.ofNat 64 e.addr)
    else t.produceLate [{ reg := .s rd.toNat, val := 0 }]
      { code := causeCode e.cls 6 e.kind, tval := BitVec.ofNat 64 e.addr } [a]
  | .ok (x, t) => (t.produceVar [{ reg := .s rd.toNat, val := x }] 0 none [a]).retire

/-- KVAPP. -/
def execKvapp (rd rs1 : Reg) (s : State) : Out :=
  if s.badS false [rs1] then s.poisonS
  else
    let a := s.opS 0 rs1
    poolResult rd a (s.kvAppend a.toNat) s

/-- POOL.POP. -/
def execPoolPop (rd rs1 : Reg) (s : State) : Out :=
  if s.badS false [rs1] then s.poisonS
  else
    let a := s.opS 0 rs1
    poolResult rd a (s.poolTake a.toNat) s

/-- POOL.PUSH: it holds issue until it is performed at the descriptor's home (R273). -/
def execPoolPush (rs1 rs2 : Reg) (s : State) : Out :=
  if s.badS false [rs1, rs2] then s.poisonS
  else match s.poolGive (s.opS 0 rs1).toNat (s.opS 1 rs2).toNat with
    | .error none => s.hold
    | .error (some e) => (s.poolSeen (s.opS 0 rs1).toNat e).fault e.cls 6 e.kind (BitVec.ofNat 64 e.addr)
    | .ok t => t.retire

end Sys2Proof.Machine
end

