-- ==== Sys2Proof/Machine/Nodes.lean ====
section
/-! DEFINITION. Submitting nodes and ending one: `enq`, `enqb` and `node.done` (16 R309-R311). -/

namespace Sys2Proof.Machine

/-- ENQ (R309): a release at .v, then the submission of the record; a refusal is 0x170. -/
def execEnq (rs1 : Reg) (s : State) : Out :=
  if s.badS false [rs1] then s.poisonS
  else
    let va := s.opS 0 rs1
    let s := s.release .v
    match s.submit s.cur.part s.cur.asid va with
    | .ok t => t.retire
    | .error e =>
      let s := s.submitMet s.cur.part s.cur.asid va 128 e
      match e with
      | .refused => s.fault 5 6 0 va
      | .fault c k a => s.fault c 6 k (BitVec.ofNat 64 a)

/-- What an entry of a batch comes to (R310): it is accepted, it is turned away with `ok` = 0, or it waits for a page that is being
moved (R35). -/
inductive BatchEnd where
  | taken (s : State)
  | refused (s : State)
  | waits

/-- One active entry of a batch (R310). -/
def State.batchOne (s : State) (a b : Word) : BatchEnd :=
  if a.toNat % 4 = 0 ∧ b = 0 then
    match s.submit s.cur.part s.cur.asid (a &&& ~~~0x7F#64) with
    | .ok t => .taken t
    | .error e => .refused (s.submitMet s.cur.part s.cur.asid (a &&& ~~~0x7F#64) 128 e)
  else if a.toNat % 4 = 1 then
    match s.poolGive (bits a 6 49 * 64) b.toNat with
    | .ok t => .taken t
    | .error none => .waits
    | .error (some _) => .refused s
  else .refused s

/-- The entries of a batch in increasing order: md and the state after (R310). -/
def State.batchAll (s : State) (on : Nat → Bool) (entry : Nat → Word × Word) : List Nat → Nat → Nat × State
  | [], md => (md, s)
  | j :: r, md =>
    if !on j then s.batchAll on entry r md
    else match s.batchOne (entry j).1 (entry j).2 with
      | .taken t => t.batchAll on entry r (md + 2 ^ j)
      | .refused t => t.batchAll on entry r md
      | .waits => s.batchAll on entry r md

/-- An entry of a batch waits for a page that is being moved (R35). -/
def State.batchWaits (s : State) (on : Nat → Bool) (entry : Nat → Word × Word) : List Nat → Bool
  | [] => false
  | j :: r =>
    if !on j then s.batchWaits on entry r
    else match s.batchOne (entry j).1 (entry j).2 with
      | .taken t => t.batchWaits on entry r
      | .refused t => t.batchWaits on entry r
      | .waits => true

/-- ENQB (R310). Where an entry waits for a page that is being moved (R35), the batch is made once the page has been. -/
def execEnqb (rd rs1 : Reg) (mk : BitVec 4) (s : State) : Out :=
  let c := s.cur
  let n := min c.vl (min (32 * c.lanes) 64)
  let g := if c.lanes = 0 then 0 else ceilDiv (2 * n) (8 * c.lanes)
  let dst (x : Nat) : RegVal := { reg := .m rd.toNat, val := x }
  if n = 0 then (s.produceVar [dst 0] 0 none []).retire
  else if 64 < rs1.toNat + g then s.tileMisuse
  else
    let mask := s.opM 1 mk.toNat
    let es := s.opGroup 0 rs1 g
    let on := activeElems 0 n mask
    if c.badMask mk.toNat 0 n || on.any (fun j => c.badPlaces [c.place rs1 64 (2 * j), c.place rs1 64 (2 * j + 1)]) then s.poisonV
    else
      let word (i : Nat) : Word := BitVec.ofNat 64 (groupGet c.lanes 64 es i)
      let entry (j : Nat) : Word × Word := (word (2 * j), word (2 * j + 1))
      if (s.release .v).batchWaits (fun j => mask.getLsbD j) entry (List.range n) then s.hold
      else
        let (md, t) := (s.release .v).batchAll (fun j => mask.getLsbD j) entry (List.range n) 0
        (t.produceVar [dst md] 0 none []).retire

/-- The cause that a parked image holds in ctl.cause (R361, R368); the context's own where the image cannot be read. -/
def State.imageCause (s : State) (c : Ctx) (va : Word) : Nat :=
  match s.imageLine c.part c.asid va.toNat 2 with
  | some (d, _) => bits d (64 * 10) 9
  | none => bits (c.cr 10) 0 9

/-- A parked node retires faulted with the cause of its image (R368 with act = 1). -/
def State.retireParked (s : State) (k : Nat) (img : Word) : State :=
  match s.ctxOf k with
  | none => s
  | some c => (s.readImage c img.toNat [2]).retireNode k 2 (s.imageCause c img) (c.last.setWidth 64) img true

/-- The node that a handler serves, while its context is still parked (R368). -/
def State.servedNode (s : State) (slot : Nat) : Option (Nat × Word) :=
  match s.node slot with
  | none => none
  | some n => match n.faulted with
    | none => none
    | some k => match s.node k with
      | none => none
      | some m => if m.stat == .parked && m.part == n.part then some (k, n.inputs.getD 0 0) else none

/-- What `node.done` waits for (R311): an engine command of the context that has not flipped its tiles back, an entry of its matrix
queue, or a bank instruction. -/
def State.workLeft (s : State) (slot : Nat) : Bool :=
  s.busy slot || (match s.ctxOf slot with
    | some c => !c.mq.isEmpty
    | none => false)

/-- The commands of a parked node that is to retire with this one have not ended (log 41). -/
def State.servedBusy (s : State) (slot : Nat) : Bool := (s.servedNode slot).any fun r => s.busy r.1

/-- NODE_DONE (R311): it holds while work is left, and a cause posted meanwhile is taken before the word. Fetches that no
`mpm` has consumed are dropped (log 24). A tagged producer drains without a visibility point, so a fault found when its data
return is not taken (R168, R169; log 25). -/
def execNodeDone (s : State) : Out :=
  let slot := s.cur.slot
  let s := (s.finishBank slot).matrixAll slot queueMax
  if !s.cur.posted.isEmpty || s.workLeft slot || s.servedBusy slot then s.hold
  else
    let s := match s.servedNode slot with
      | some (k, img) => s.retireParked k img
      | none => s
    .next (s.retireNode slot 1 0 (s.cur.pc.setWidth 64) 0 true)

end Sys2Proof.Machine
end

