-- ==== Sys2Proof/Machine/System.lean ====
section
/-! DEFINITION. The system and trap instructions of opcode 0xF0 (20 R357-R369). `hcfg` stands with the history. -/

namespace Sys2Proof.Machine

/-! ### trap, brk, svc, eret (R358, R366) -/

/-- The word completes before its trap (R366). -/
def State.trapRetired (s : State) : State := s.mapCur fun c => { c with last := c.pc }

/-- `trap` and `brk`: the light route where it is open, else the service route (R354). -/
def State.lightOrServe (s : State) (code : Nat) (imm : BitVec 32) : Out :=
  let s := s.trapRetired
  if s.cur.lightReady then .next (s.mapCur fun c => c.takeLight code imm (c.pc + 1))
  else .next (s.serve code s.openTval s.cur.pslot)

/-- TRAP. -/
def execTrap (code : BitVec 32) (s : State) : Out := s.lightOrServe 4 code

/-- BRK. -/
def execBrk (code : BitVec 32) (s : State) : Out := s.lightOrServe 5 code

/-- SVC: always the service route. The handler reads the code from the word. -/
def execSvc (_code : BitVec 32) (s : State) : Out := .next (s.trapRetired.serve 6 s.openTval s.cur.pslot)

/-- Kind 3 of class 0: a supervisor-only instruction in task mode (R175). -/
def State.notSupervisor (s : State) : Out := s.faultOpen 0 0 3

/-- ERET. -/
def execEret (s : State) : Out :=
  if !s.cur.super then s.notSupervisor
  else if !(s.cur.cr 24).getLsbD 0 then s.faultOpen 0 0 7
  else .next (s.mapCur Ctx.lightReturn)

/-! ### Control registers (R360, R367) -/

/-- Every producer that can raise a flag has completed, and the results of those that raised one are visible (R197); or the
pending result that stops this. -/
def State.settleFlags (s : State) : Except Pending State :=
  let s := (s.cur.pend.map (·.tag)).foldl (fun s t => s.completeTag s.cur.slot t) s
  match s.cur.pend.find? (fun p => !p.done) with
  | some p => .error p
  | none => s.showTags (fun t => s.cur.pend.any fun p => p.tag == t && p.flags != 0) 64

/-- CTL_RD (R367). -/
def execCtlRd (rd : Reg) (num : BitVec 5) (s : State) : Out :=
  let give (s : State) (x : Word) : Out := (s.produceFixed [(.s rd.toNat, x.toNat)] 0).retire
  if num = 14 then
    match s.settleFlags with
    | .error p => .next (s.takeLate p)
    | .ok s => give s (s.cur.cr 14)
  else give s (s.opC 0 num.toNat)

/-- The writable bits of a control register (R196-R198, R357, R360). -/
def ctlMask : Nat → Word
  | 10 => 0x1FF
  | 11 => 0x1FFFFFFFF
  | 12 | 17 | 27 => 0xFFFFFFFFFFFFFFFF
  | 13 => 7
  | 14 => 0x1F
  | 15 | 16 | 25 => 0xFFFFFFFF
  | 22 => 0xFFF
  | 23 => 0x8000000FFFFFFFFF
  | 24 => 3
  | 26 => 0xFFFFFFFF000001FF
  | _ => 0

/-- The bits that `ctl.clr` alone clears (R130, R359). -/
def clrMask : Nat → Word
  | 21 => 0x100
  | 28 => 0xF
  | _ => 0

/-- A control register with new bits under a mask. A rounding mode that is reserved is not taken (R196); a write of ctl.tcmp
arms the timer (R359). -/
def Ctx.putCtl (c : Ctx) (n : Nat) (mask x : Word) : Ctx :=
  let v := (c.cr n &&& ~~~mask) ||| (x &&& mask)
  if n = 13 ∧ 4 < v.toNat % 8 then c
  else
    let c := c.setCr n v
    if n = 27 then { c with timer := true } else c

/-- The three writing instructions (R367), with the writable bits and the new value from the old one and rs1. -/
def ctlWrite (mask : Nat → Word) (num : BitVec 5) (rs1 : Reg) (f : Word → Word → Word) (s : State) : Out :=
  if ctlSupervisor num.toNat && !s.cur.super then s.notSupervisor
  else if s.badS false [rs1] then s.poisonS
  else
    let x := s.opS 0 rs1
    (s.mapCur fun c => c.putCtl num.toNat (mask num.toNat) (f (c.cr num.toNat) x)).retire

/-- CTL_WR. -/
def execCtlWr (num : BitVec 5) (rs1 : Reg) (s : State) : Out := ctlWrite ctlMask num rs1 (fun _ x => x) s
/-- CTL_SET. -/
def execCtlSet (num : BitVec 5) (rs1 : Reg) (s : State) : Out := ctlWrite ctlMask num rs1 (fun a x => a ||| x) s
/-- CTL_CLR. -/
def execCtlClr (num : BitVec 5) (rs1 : Reg) (s : State) : Out :=
  ctlWrite (fun n => ctlMask n ||| clrMask n) num rs1 (fun a x => a &&& ~~~x) s

/-! ### ctx.resume (R368) -/

/-- The node that the handler in focus may resume with the image `va`. -/
def State.resumable (s : State) (va : Word) : Option Nat :=
  match s.servedNode s.cur.slot with
  | some (k, img) => if img = va then some k else none
  | none => none

/-- Resume misuse, 0x174. -/
def State.resumeMisuse (s : State) : Out := s.faultOpen 5 6 4

/-- The handler retires done; the word is the last that it retires. -/
def State.endHandler (s : State) : Out := .next (s.retireNode s.cur.slot 1 0 (s.cur.pc.setWidth 64) 0 true)

/-- The checks of `ctx.resume`, its release, and then `k` with the faulted node's slot and the image. The handler retires, and so may
the node, once their commands have ended (log 41). -/
def resumeWith (rs1 : Reg) (k : Nat → Word → State → Out) (s : State) : Out :=
  if !s.cur.super then s.notSupervisor
  else if s.badS false [rs1] then s.poisonS
  else
    let va := s.opS 0 rs1
    match s.resumable va with
    | none => s.resumeMisuse
    | some n => if s.busy s.cur.slot then (s.finishBank s.cur.slot).hold else k n va (s.release .v)

/-- A parked context returns to the pool (R154, R346, R368): it waits for a hart and its watchdog restarts from zero. -/
def State.returnToPool (s : State) (k : Nat) (c : Ctx) : State :=
  let s := s.mapCtx k fun _ => { c with status := .out, image := c.cr 17, evicted := [] }
  s.mapNode k fun n => { n with stat := .out, outAt := s.time, watchOn := true, watch := s.time, half := false }

/-- CTX_RESUME with act = 0. A poisoned CTLB retires the node with 0x0F5 (R355), an unreachable image with 0x175. -/
def execCtxResume (rs1 : Reg) (s : State) : Out :=
  resumeWith rs1 (fun k va s =>
    match s.ctxOf k with
    | none => s.resumeMisuse
    | some c =>
      let t := s.unparkRead c va.toNat
      match s.unpark c va.toNat with
      | .fault 0x174 => t.resumeMisuse
      | .fault code =>
        if s.busy k then (s.finishBank k).hold
        else (t.retireNode k 2 code (c.last.setWidth 64) (if code = 0x175 then 0 else va) true).endHandler
      | .ok c' => (t.returnToPool k c').endHandler) s

/-- CTX_RESUME with act = 1. -/
def execCtxResumeRetire (rs1 : Reg) (s : State) : Out :=
  resumeWith rs1 (fun k va s => if s.busy k then (s.finishBank k).hold else (s.retireParked k va).endHandler) s

/-! ### pte.inv (R22, R369) -/

/-- An entry that `pte.inv` covers, by its ASID and page. -/
def pteCovers (sc asid va a page : Nat) : Bool :=
  match sc with
  | 0 => a == asid && page == va / 65536
  | 1 => a == asid && page / 8192 == va / 2 ^ 29
  | 2 => a == asid
  | _ => true

/-- A line lies in the frames of a leaf. -/
def Leaf.holds (l : Leaf) (line : Nat) : Bool :=
  l.frame ≤ line / 512 && line / 512 < l.frame + (if l.big then 8192 else 1)

/-- The dirty bytes of lines go from every L1 and cluster cache to their homes (R22). The lines stay cached. -/
def State.flushLines (s : State) (hit : Nat → Bool) : State :=
  let s := (s.l1.filter fun (c : CLine) => c.dirty != 0 && hit c.line).foldl State.l1WriteBack s
  let s := { s with l1 := s.l1.map fun (c : CLine) => if hit c.line then { c with dirty := 0 } else c }
  let s := (s.cc.filter fun (c : CLine) => c.dirty != 0 && hit c.line).foldl State.ccSend s
  let s := { s with cc := s.cc.map fun (c : CLine) => if hit c.line then c.cleaned else c }
  (s.sends.filter fun (t : Send) => hit t.line).foldl State.ownDrain s

/-- The contexts of a partition whose fetches go on (R291): on a hart, with no cause of the matrix path posted. The others pin and
translate their lines again at the resume. -/
def State.fetchers (s : State) (p : Nat) : List Ctx :=
  (s.cur :: s.others).filter fun (c : Ctx) =>
    c.status == .running && c.part == p && !c.mstopped

/-- Accesses that were translated and not yet made: the lines of fetches are read, as far as pins, budgets and turns allow (R22, R290,
R291, R344). -/
def State.settleFetches (s : State) (p : Nat) : State :=
  ((s.fetchers p).map (·.cluster)).eraseDups.foldl (fun (s : State) o =>
    s.fetchTurns o ((((s.resident o).flatMap Ctx.fetchList).map fun (f : Fetch) => f.lines.length).sum)) s

/-- Every access of a partition that has been translated can be made: no line of a fetch still waits (R22, R290, R350). -/
def State.settles (s : State) (p : Nat) : Bool :=
  let t := s.settleFetches p
  (t.fetchers p).all fun c => c.fetchList.all Fetch.whole

/-- Every cached copy of some entries of a partition, and of the table pointers above them, is dropped after the accesses that used
them (R22, R369); instruction caches of the partition are invalidated (R122). -/
def State.invalidate (s : State) (p : Nat) (hit : Tlb → Bool) (above : WalkPtr → Bool) : State :=
  let gone (t : Tlb) : Bool := t.part == p && hit t
  let leaves := (s.tlb.filter gone).map fun (t : Tlb) => t.leaf
  let s := s.settleFetches p
  let s := s.flushLines fun l => leaves.any fun f => f.holds l
  let own (o : Nat) : Bool := (s.partReg p).pclu.getLsbD o
  { s with
    tlb := s.tlb.filter fun t => !gone t
    walks := s.walks.filter fun w => !(w.part == p && above w)
    icache := s.icache.filter fun (c : ILine) => !own c.owner }

/-- The same for the entries that some cached leaves come from. -/
def State.invalidateLeaves (s : State) (p : Nat) (hit : Leaf → Bool) : State :=
  let gone := s.tlb.filter fun (t : Tlb) => t.part == p && hit t.leaf
  s.invalidate p (fun t => hit t.leaf) fun w => gone.any fun t => w.covers w.owner p t.asid (65536 * t.page)

/-- A command in flight still holds a covered translation, of the ASID under which it was issued. -/
def State.pteBusy (s : State) (p sc asid va : Nat) : Bool :=
  s.cmds.any (fun (c : EngCmd) => c.part == p && c.pages.any fun q => pteCovers sc asid va c.asid q.1)
    || s.bank.any (fun (c : BankCmd) => c.part == p && c.pages.any fun q => pteCovers sc asid va c.asid q.1)

/-- PTE_INV: it holds issue until every access under the old entries has been made. -/
def execPteInv (rs1 rs2 : Reg) (sc : BitVec 2) (s : State) : Out :=
  if !s.cur.super then s.notSupervisor
  else if s.badS false [rs1, rs2] then s.poisonS
  else
    let va := (s.opS 0 rs1).toNat
    let asid := bits (s.opS 1 rs2) 0 12
    if sc.toNat ≤ 1 ∧ windowBase ≤ va then s.faultOpen 5 0 2
    else if s.pteBusy s.cur.part sc.toNat asid va || !s.settles s.cur.part then s.hold
    else (s.invalidate s.cur.part (fun (t : Tlb) => pteCovers sc.toNat asid va t.asid t.page)
      fun w => 3 ≤ sc.toNat || (w.asid == asid && (sc.toNat = 2 || w.pre == walkPrefix va w.lvl))).retire

end Sys2Proof.Machine
end

