-- ==== Sys2Proof/Machine/VConfig.lean ====
section
/-! DEFINITION. Vector configuration: setvl, vclaim and vcfg (11 R231-R234) with the adoption of a grant (06 R143, R144). -/

namespace Sys2Proof.Machine

/-- The pending results that a word makes visible whatever their tags: those of vector and mask registers (R232). -/
def Pending.isVec (p : Pending) : Bool := p.vals.any fun v => match v.reg with
  | .v _ | .m _ => true
  | _ => false

/-- Every pending vector and mask result is made visible; a fault found late is answered first (R169, R232). -/
def State.showVec (s : State) : Except Pending State :=
  s.showTags (fun t => s.cur.pend.any fun p => p.tag == t && p.isVec) 64

/-- The largest power of two lanes from 1 to 32 whose share fits in `free` lanes; 0 where none does (R142, R143). -/
def fitLanes (free : Nat) : Nat := if free < 4 then 0 else pow2Floor (min free 32)

/-- The grant that `setvl` adopts (R143), or none where the context waits for its floor. On a cluster that a gang has, a context of
another node takes no lane (R146). DESIGN CHOICE: lanes that a whole-cluster context leaves free are free to the `setvl` of a context
that was placed beside it with LREQ = 0 and has claimed some since (R145, log 97). -/
def State.adopt (s : State) : Option Nat :=
  let c := s.cur
  if 16 ≤ c.lreq then some c.lanes
  else
    let t := if c.lreq = 0 then 0 else c.target
    let free := if s.gangOn c.cluster c.slot then 0 else s.freeLanes c.cluster
    let l := if t ≤ c.lanes then t else max c.lanes (min t (fitLanes (free + c.share)))
    if l < c.lmin then none else some l

/-- A vector register under a new grant: elements below both capacities keep their values (R144). -/
def regrantVec (l l' w : Nat) (x : BitVec 16384) : BitVec 16384 :=
  if l = 0 ∨ l' = 0 then 0
  else (List.range (min l l' * 512 / w)).foldl (fun (y : BitVec 16384) i => elemSet l' w y i (elemGet l w x i)) 0

/-- The marks of a vector register under a new grant (R144, R363). -/
def regrantMarks (l l' w : Nat) (p : BitVec 8192) : BitVec 8192 :=
  if l = 0 ∨ l' = 0 then 0
  else (List.range (min l l' * 512 / w)).foldl (fun (q : BitVec 8192) i =>
    setBits q (elemPos l' w i / 2) (w / 2) (bits p (elemPos l w i / 2) (w / 2))) 0

/-- A tile register under a new grant: columns below both widths keep their values (R144). -/
def TReg.regrant (t : TReg) (l l' : Nat) : TReg :=
  (List.range 64).foldl (fun (u : TReg) m =>
    (List.range (4 * min l l')).foldl (fun (u : TReg) n => u.set l' m n (t.get l m n) (t.bad l m n)) u) { flags := t.flags }

/-- Every register under a new grant at element width `w` (R144): the granules of mask, vector and tile registers are written anew where
the new grant has them (R150, R151). -/
def Ctx.regrant (c : Ctx) (l' w : Nat) : Ctx :=
  let l := c.lanes
  if l = l' then c
  else
    let k := min l l' * 512 / w
    { c with
      v := c.v.map (regrantVec l l' w)
      pv := c.pv.map (regrantMarks l l' w)
      m := c.m.map fun x => x &&& BitVec.ofNat 8192 (2 ^ k - 1)
      pm := c.pm.map fun (p : BitVec 4096) => p &&& BitVec.ofNat 4096 (2 ^ ((k + 1) / 2) - 1)
      t := c.t.map fun t => t.regrant l l'
      evicted := c.evicted.filter fun e => !((48 ≤ e.1 && e.1 < 288) || 320 ≤ e.1) }

/-- The width of a SEW code (R230). -/
def sewBits (code : Nat) : Nat := 2 * 2 ^ code

/-- SETVL (R232): it waits for the context's matrix operations (R297) and for its floor (R143). -/
def execSetvl (rd rs1 : Reg) (sew : BitVec 3) (s : State) : Out :=
  if s.badS false [rs1] then s.poisonS
  else
    let avl := (s.opS 0 rs1).toNat
    let s := s.matrixAll s.cur.slot queueMax
    if !s.cur.mq.isEmpty then s.hold
    else match s.showVec with
      | .error p => .next (s.takeLate p)
      | .ok s => match s.adopt with
        | none => s.hold
        | some l' =>
          let w := sewBits sew.toNat
          let vl := min avl (l' * 512 / w)
          let s := s.mapCur fun c => c.regrant l' w
          (s.produceFixed [(.c 0, vl), (.c 1, l'), (.c 2, 0),
            (.c 3, (setBits (s.cur.cr 3) 0 3 sew.toNat).toNat), (.s rd.toNat, vl)] 0).retire

/-- VCLAIM (R233). -/
def execVclaim (rd : Reg) (req floor : BitVec 3) (s : State) : Out :=
  let c := s.cur
  if 16 ≤ c.lreq then (s.produceFixed [(.s rd.toNat, c.lanes)] 0).retire
  else if c.icap = 0 then (s.produceFixed [(.s rd.toNat, 0)] 0).retire
  else
    let most (k : BitVec 3) : Nat := min (min (laneCode k.toNat) 8) c.icap
    let s := (s.mapCur fun c => { c with lreq := most req, lmin := most floor, target := 0 }).retarget c.cluster
    (s.produceFixed [(.s rd.toNat, s.cur.target)] 0).retire

/-- VCFG (R234). -/
def execVcfg (rd : Reg) (gs : BitVec 3) (mp tp : Bool) (s : State) : Out :=
  let old := s.cur.cr 3
  let x := setBits (setBits (setBits old 4 3 gs.toNat) 8 1 (if mp then 1 else 0)) 9 1 (if tp then 1 else 0)
  (s.produceFixed [(.c 3, x.toNat), (.s rd.toNat, old.toNat)] 0).retire

end Sys2Proof.Machine
end

