-- ==== Sys2Proof/Machine/Place.lean ====
section
/-! DEFINITION. The dispatcher: which ready node comes next and where it goes (06 R139, R141-R146; 19 R340-R343), the start of
contexts and of engine nodes (06 R141; 16 R312; 17 R331), and drains (06 R146, 19 R343). -/

namespace Sys2Proof.Machine

/-! ### Tiles at a placement (R51, R342) -/

/-- The declared tiles of a node flip to it in the step of its placement (R51, R342). -/
def State.takeDeclared (s : State) (n : Node) (o : Nat) : State :=
  (n.declared.filter fun k => tileKind (s.tile o k).owner == 0).foldl (fun (s : State) k =>
    s.flipTiles o [k] fun _ => ownerField 1 0 n.part 0 n.slot) s

/-- The tiles of an engine node, declared or held for it, flip to its engine (R51, R312, R342). The ENG codes name no engine for a
bank or a history node: its tiles carry code 00, as a copy node's do (log 91). -/
def State.takeEngine (s : State) (n : Node) (o : Nat) : State :=
  let s := s.takeDeclared n o
  let eng := if recKind n.words = 2 then 1 else 0
  ((s.ownedTiles n.slot).filter fun t => t.cluster == o && tileKind t.owner == 1).foldl (fun (s : State) t =>
    s.setTile { t with owner := ownerField 2 eng (tilePart t.owner) 0 n.slot }) s

/-- A node's entry as its placement leaves it (R340, R346). -/
def State.placed (s : State) (n : Node) (o c : Nat) (stat : NodeStat) : State :=
  s.mapNode n.slot fun m => { m with stat := stat, cluster := o, cls := c, watchOn := true, watch := s.time, half := false, prog := 0, hist := none }

/-! ### Starting an engine node (R312, R331) -/

/-- An engine node that cannot start retires faulted with its cause (R312, R354). -/
def State.engineFault (s : State) (n : Node) (cls src kind : Nat) : State :=
  s.retireNode n.slot 2 (causeCode cls src kind) 0 0 true

/-- The kind of the class-2 fault of a tile that an engine node names and does not hold (R302). -/
def State.nodeTiles (s : State) (n : Node) (o : Nat) (ks : List Nat) : Option Nat :=
  ks.findSome? fun k =>
    let w := (s.tile o k).owner
    if tileKind w = 3 then some 3 else if tileKind w = 2 ∧ tileNode w = n.slot then none else some 2

/-- What an engine node's start comes to: its command is issued, it retires faulted, or, with `none`, it waits for a page that is being
moved (R35). -/
def State.started (s : State) (n : Node) (src : Nat) : Except (Option Failed) State → Option State
  | .ok t => some t
  | .error none => none
  | .error (some (c, k, a)) => some ((s.metAt n.part n.asid c k a).engineFault n c src k)

/-- A copy node starts (R307, R312): its block is read and its command is issued. -/
def State.startCopy (s : State) (n : Node) (o : Nat) : Option State :=
  match s.agentWords sysAgent n.part n.asid (wordAt n.words 1).toNat 8 with
  | .error e => some ((s.agentMet n.part n.asid (wordAt n.words 1).toNat 64).engineFault n e.1 4 e.2.1)
  | .ok (ws, t) => match blockJob ws with
    | none => some (t.engineFault n 5 4 2)
    | some j => match s.nodeTiles n o j.tileList with
      | some k => some (t.engineFault n 2 4 k)
      | none => t.started n 4 ((t.countIn sysAgent n.part n.asid [((wordAt n.words 1).toNat, 64)]).copyStart n.part n.asid o n.slot true j)

/-- A Rally node starts (R312, R316). -/
def State.startSort (s : State) (n : Node) (o : Nat) : State :=
  match s.agentWords sysAgent n.part n.asid (wordAt n.words 1).toNat 1 with
  | .error e => (s.agentMet n.part n.asid (wordAt n.words 1).toNat 8).engineFault n e.1 4 e.2.1
  | .ok (ws, t) =>
    let t := t.countIn sysAgent n.part n.asid [((wordAt n.words 1).toNat, 8)]
    let w := ws.getD 0 0
    let k := bits w 0 7
    if bits w 7 57 ≠ 0 then t.engineFault n 5 4 2
    else match s.nodeTiles n o [k] with
      | some e => t.engineFault n 2 4 e
      | none =>
        let h := t.rallyHdr o k
        let bad := (t.tileGet o k 0 8).2
        if !bad && !(hdrOk h && t.rallyPad o k) then t.engineFault n 5 4 2
        else if !bad && hdrSt h == 2 then t.retireNode n.slot 1 0 0 0 true
        else t.sortStart n.part o n.slot k true

/-- A bank node starts (R331). -/
def State.startBank (s : State) (n : Node) : Option State :=
  let va := wordAt n.words 1
  match s.agentLeaf sysAgent n.part n.asid va.toNat .read with
  | .error .wait => none
  | .error (.fault c k _) => some ((s.walkMet n.part n.asid va.toNat).engineFault n c 5 k)
  | .ok l =>
    if !(region (65536 * l.frame) == .fast && l.ca == 2) then some (s.engineFault n 5 5 2)
    else
      let t := s.useLeaf sysAgent n.part n.asid va.toNat .read l
      let ((x, bad), t) := t.leafRead sysAgent l va.toNat 128
      if bad then some (t.engineFault n 3 5 0)
      else t.started n 5 (t.bankStart n.part n.asid n.slot true va x)

/-- An engine node is placed and starts at its engine (R312, R331); a history node appends by events of its own (R270). `none` where
it cannot start yet. -/
def State.startEngine (s : State) (n : Node) (o c : Nat) : Option State :=
  let s := (s.takeEngine n o).placed n o c .engine
  match recKind n.words with
  | 1 => s.startCopy n o
  | 2 => some (s.startSort n o)
  | 3 => s.startBank n
  | _ => some s

/-! ### Which nodes can be placed -/

/-- An earlier handler of the same record has not retired (R356), or the image of the faulted context has still to be written (R153). -/
def State.handlerWaits (s : State) (n : Node) : Bool :=
  recKind n.words == 5 && (n.faulted.any s.imageOwed || s.nodes.any fun m =>
    m.part == n.part && m.asid == n.asid && m.va == n.va && m.serial < n.serial && recKind m.words == 5)

/-- A ready node is placeable, and where it would go (19 R340, R384). An engine node whose start would wait for a migration is not
(log 91). -/
def State.placement (s : State) (n : Node) : Option (List (Node × Nat)) :=
  if n.stat == .ready && s.enabled n.part && !s.stageHeld n && !s.handlerWaits n then
    (s.assign n).filter fun w => !n.isEngine || w.all fun m => (s.startEngine m.1 m.2 (s.classOf n)).isSome
  else none

/-! ### The choice (R341) -/

/-- PW (R339). -/
def State.weightOf (s : State) (p : Nat) : Nat := bits (s.partReg p).psched 0 8

/-- S of a partition and class (R341). -/
def State.dispatched (s : State) (p c : Nat) : Nat := ((s.counters.find? fun e => e.1 == 4 * p + c).map (·.2)).getD 0

/-- S counts one dispatch more. -/
def State.countDispatch (s : State) (p c : Nat) : State :=
  { s with counters := (4 * p + c, s.dispatched p c + 1) :: s.counters.filter fun e => e.1 != 4 * p + c }

/-- The placeable node of a partition and class that became ready first (R341). -/
def State.firstReady (s : State) (p c : Nat) : Option Node :=
  (s.nodes.filter fun n => n.part == p && n.stat == .ready && s.classOf n == c && (s.placement n).isSome).foldl
    (fun (best : Option Node) n => match best with
      | none => some n
      | some b => if n.ready < b.ready || (n.ready == b.ready && n.serial < b.serial) then some n else some b) none

/-- The node that the dispatcher places next in class `c` (R341). -/
def State.nextOf (s : State) (c : Nat) : Option Node :=
  ((List.range 16).filterMap fun p => if s.weightOf p = 0 then none else (s.firstReady p c).map fun n => (p, n)).foldl
    (fun (best : Option (Nat × Node)) x => match best with
      | none => some x
      | some b =>
        if (s.dispatched x.1 c + 1) * s.weightOf b.1 < (s.dispatched b.1 c + 1) * s.weightOf x.1 then some x else some b) none
  |>.map (·.2)

/-- The next placeable node and its class (R341). -/
def State.choose (s : State) : Option (Nat × Node) :=
  (List.range 4).findSome? fun c => (s.nextOf c).map fun n => (c, n)

/-! ### Starting a context (R141, R143) -/

/-- A context as it starts (R141, R356), before its grant. -/
def Node.freshCtx (n : Node) (order : Nat) : Ctx :=
  let w := n.words
  let (idx, lva) := match n.launch with
    | some l => (BitVec.ofNat 64 l.index, l.va)
    | none => (0, 0)
  let gs := match n.launch with
    | some l => match l.levelOf 0 with
      | some k => ilog2 (l.exts.getD k 1)
      | none => 0
    | none => 0
  let ins : List Word := if recKind w = 5 then (List.range 5).map fun k => n.inputs.getD k 0 else [idx, lva]
  let args := wordAt w 11 :: wordAt w 12 :: ins
  let c : Ctx :=
    { slot := n.slot, part := n.part, super := recKind w == 5, code := wordAt w 1, lreq := laneCode (recLreq w)
      lmin := laneCode (recLmin w), icap := capLanes w, wgt := bits (wordAt w 0) 8 8, order := order, image := n.image
      s := args.zipIdx.foldl (fun (v : Vector Word 64) (x, k) => v.setIfInBounds (k + 1) x) (Vector.replicate 64 0) }
  (((c.setCr 3 (BitVec.ofNat 64 (4 + 16 * gs))).setCr 17 n.image).setCr 18 (BitVec.ofNat 64 n.slot)).setCr 22
    (BitVec.ofNat 64 n.asid)

/-- The grant at dispatch (R143, R145): the target where the free quads cover it, else what they allow; `kept` lanes stay free
for the floors of members that start after it. -/
def grantOf (lreq target free kept : Nat) : Nat :=
  if 8 < lreq then lreq
  else if lreq = 0 then 0
  else if max 4 target ≤ free - kept then target else fitLanes (free - kept)

/-- A free hart of a cluster; which one is free (log 2). -/
def State.someHart (s : State) (o : Nat) : Nat :=
  ((turned (Config.pick s.nd 11) (List.range 8)).find? (s.hartFree o)).getD 0

/-- A context put on a hart, not yet granted lanes; its hart acquires at the wider of the node's scope and .v (R120). -/
def State.seatNode (s : State) (n : Node) (o c : Nat) : State :=
  let h := s.someHart o
  let x := s.seat (n.freshCtx s.serial) o h
  let s := s.takeDeclared n o
  let s := { s with serial := s.serial + 1 }
  ((s.putCtx x).placed n o c .running).acquireCaches o h n.releaseScope

/-- The grants of contexts that have just been seated on a cluster, in order (R143). -/
def State.grantAll (s : State) (o : Nat) : List Node → State
  | [] => s
  | n :: r =>
    let kept := (r.map fun m => floorShare m.words).sum
    let free := s.freeLanes o
    let s := s.mapCtx n.slot fun c => c.setCr 1 (BitVec.ofNat 64 (grantOf c.lreq c.target free kept))
    s.grantAll o r

/-- The contexts that a placement puts on one cluster. -/
def State.startOn (s : State) (o c : Nat) (ns : List Node) : State :=
  ((ns.foldl (fun (s : State) n => s.seatNode n o c) s).retarget o).grantAll o ns

/-! ### Placement -/

/-- The bounds that a placement sets for other instances of the launch: the cluster of a cluster group or gang member, the die
of a die group (R139). -/
def State.fixGroups (s : State) (n : Node) (o : Nat) : State :=
  match n.launch with
  | none => s
  | some l =>
    let s := if l.doms.contains 2 || l.doms.contains 3 then s.mapNode n.slot fun m => { m with fixed := some o } else s
    match l.levelOf 4 with
    | none => s
    | some d => { s with nodes := s.nodes.map fun m => match m.launch with
        | some k => if k.serial == l.serial && k.coords.take d == l.coords.take d && m.fixed.isNone then
            { m with fixed := some (1000 + o / 32) } else m
        | none => m }

/-- The clusters of a gang that starts to run (R146); a member that is placed again keeps the gang's. -/
def State.noteGang (s : State) (n : Node) (where_ : List (Node × Nat)) : State :=
  match n.gang with
  | none => s
  | some k =>
    if s.gangs.any fun g => g.1 == k then s else { s with gangs := s.gangs ++ [(k, (where_.map (·.2)).eraseDups)] }

/-- The chosen node and its mates are placed (R341-R343). -/
def State.place (s : State) (c : Nat) (n : Node) (where_ : List (Node × Nat)) : State :=
  let s := s.countDispatch n.part c
  let s := { s with drains := s.drains.filter fun d => where_.all fun m => d.2.1 != m.1.slot }
  let s := (where_.foldl (fun (s : State) m => s.fixGroups m.1 m.2) s).noteGang n where_
  if n.isEngine then where_.foldl (fun (s : State) m => (s.startEngine m.1 m.2 c).getD s) s
  else ((where_.map (·.2)).eraseDups).foldl (fun (s : State) o =>
    s.startOn o c ((where_.filter fun m => m.2 == o).map (·.1))) s

/-- DISPATCH_NODE (R341): the dispatcher places the node that comes next. -/
def execDispatchNode (s : State) : Out :=
  match s.choose with
  | none => .next s
  | some (c, n) => match s.placement n with
    | none => .next s
    | some w => .next (s.place c n w)

/-! ### Drains (R146, R343) -/

/-- A gang or a whole-cluster node. -/
def Node.wide (n : Node) : Bool := 8 < laneCode (recLreq n.words) || (match n.launch with
  | some l => l.doms.contains 3
  | none => false)

/-- A context that is off its hart can resume on no hart (R154). -/
def State.resumesNowhere (s : State) (n : Node) : Bool :=
  (s.ctxOf n.slot).any fun c => c.status == .out && (List.range 128).all fun o => (List.range 8).all fun h => !s.canResume c n o h

/-- A ready node, or one that was pre-empted and is back in the pool (R343), has waited 20 µs, 54,000 ck, for free clusters, and may
drain some (R146, R156). DESIGN CHOICE: a pre-empted one waits from the time at which it left its hart (log 97). -/
def State.mayDrain (s : State) (n : Node) : Bool :=
  n.wide && s.enabled n.part && match n.stat with
    | .ready => 54000 ≤ s.time - n.ready && (s.assign n).isNone
    | .out => 54000 ≤ s.time - max n.ready n.outAt && s.resumesNowhere n
    | _ => false

/-- The lane-holding contexts of a cluster. -/
def State.laneHolders (s : State) (o : Nat) : List Ctx := (s.resident o).filter fun c => c.share != 0

/-- The clusters that a drain takes (R343): those with the fewest lane-holding contexts, the lowest numbers first, on one die where the
node's launch asks for it. A cluster on which tiles are held for the node, or for a mate, comes first (R145). A node that was
pre-empted takes those of its gang, or the one that holds its tiles (R52, R146, R154). -/
def State.drainSet (s : State) (n : Node) : List Nat :=
  let back := if n.stat != .out then [] else
    if (s.gangHome n.slot).isEmpty then ((s.ownedTiles n.slot).map (·.cluster)).eraseDups else s.gangHome n.slot
  if !back.isEmpty then back else
  let held (o : Nat) : Nat := (s.laneHolders o).length
  let must := (s.mates n).filterMap s.heldOn
  let all := (List.range 128).filter fun o => s.ownsCluster n.part o && n.mayUse o && !must.contains o
  let sorted := must.eraseDups ++ (List.range 9).flatMap fun k => all.filter fun o => held o == k
  match n.launch with
  | none => sorted.take 1
  | some l => match l.levelOf 3 with
    | none => sorted.take 1
    | some g =>
      let size := if n.fixed.any (· < 1000) then 1 else l.exts.getD g 1
      let sets := if l.doms.contains 4 then (List.range 4).map fun d => sorted.filter fun o => o / 32 == d else [sorted]
      let sets := (sets.filter fun c => size ≤ c.length && must.all c.contains).map fun c => c.take size
      let cost (c : List Nat) : Nat := (c.map held).sum
      (sets.find? fun c => sets.all fun d => cost c ≤ cost d).getD []

/-- Among the nodes of a partition that could drain, the more urgent goes first, then the one that has waited longer (R343). -/
def State.drainFirst (s : State) (n : Node) : Bool :=
  s.nodes.all fun m => m.slot == n.slot || m.part != n.part || !s.mayDrain m
    || s.classOf n < s.classOf m || (s.classOf n == s.classOf m && n.ready ≤ m.ready)

/-- The lane-holding contexts of some clusters, but for those of the drained node's gang, are pre-empted (R146), with the members on
other clusters of a gang that is among them: a gang runs on all its clusters or holds none. One whose switch has to wait leaves as soon
as it can. -/
def State.clearLanes (s : State) (slot : Nat) (cs : List Nat) : State :=
  let here := (cs.flatMap s.laneHolders).filter fun c => c.slot != slot && !s.gangMates slot c.slot
  let gangs := here.filterMap fun c => s.gangOf c.slot
  let mates := (s.cur :: s.others).filter fun c =>
    c.status == .running && !here.any (·.slot == c.slot) && (s.gangOf c.slot).any gangs.contains
  (here ++ mates).foldl (fun (s : State) c => s.preempt c.slot) s

/-- CLUSTER_DRAIN: the clusters are reserved and their lane-holding contexts pre-empted. -/
def execClusterDrain (slot : Nat) (s : State) : Out :=
  match s.node slot, s.drains.find? fun d => d.2.1 == slot with
  | none, _ => .next s
  | some _, some d => .next (s.clearLanes slot d.2.2)
  | some n, none =>
    if !s.mayDrain n || s.drains.any (fun d => d.1 == n.part) || !s.drainFirst n then .next s
    else
      let cs := s.drainSet n
      if cs.isEmpty then .next s
      else .next ({ s with drains := s.drains ++ [(n.part, slot, cs)] }.clearLanes slot cs)

end Sys2Proof.Machine
end

