-- ==== Sys2Proof/Machine/Watch.lean ====
section
/-! DEFINITION. Watchdogs (19 R346-R348) and the boundaries of the module's time base (03 R67; 19 R341, R350). -/

namespace Sys2Proof.Machine

/-! ### The limit (R346) -/

/-- A node's limit in units of 4.096 µs. -/
def State.watchLimit (s : State) (n : Node) : Nat :=
  let w := bits (wordAt n.words 0) 32 16
  if w = 0 then bits (s.partReg n.part).psched 32 16 else w

/-- The time counted at the last boundary, in tenths of a ck. -/
def State.counted (s : State) (n : Node) : Nat := periodTenths * s.period - 10 * n.watch

/-- The watchdog of a node counts (R346). -/
def Node.counting (n : Node) : Bool := n.watchOn && (n.stat == .running || n.stat == .engine || n.stat == .out)

/-- WATCHDOG_HALF_LIMIT (R359): once for each dispatch or resume. -/
def execWatchdogHalfLimit (slot : Nat) (s : State) : Out :=
  match s.node slot with
  | none => .next s
  | some n =>
    if n.counting && !n.half && s.watchLimit n * periodTenths ≤ 2 * s.counted n then
      .next ((s.mapNode slot fun n => { n with half := true }).mapCtx slot fun c => c.pendEvent 2)
    else .next s

/-! ### Expiry (R347, R348) -/

/-- A copy that is reset: each of its 128-byte lines has been written whole or not at all, freely (R347). -/
def State.dropCopy (s : State) (c : EngCmd) (out : List EngWrite) : Nat × State :=
  let made := out.filter fun w => Config.choice s.nd (2 ^ 60 + w.lineKey)
  ((made.map fun w => popCount w.mask.toNat 128).sum, s.engWrites c made)

/-- A tile-engine command is reset (R347): a sort leaves its tile in a state that it has reached (R317). One that no channel or array
works on does nothing more. The amount done. -/
def State.dropEngine (s : State) (c : EngCmd) : Nat × State :=
  let (k, s) := if !c.running then (c.steps, s) else match c.op with
    | .copy out _ => s.dropCopy c out
    | .sort =>
      let t := c.tiles.getD 0 0
      let h := s.rallyHdr c.cluster t
      if !hdrOk h || (s.rallyPoison c.cluster t (2 ^ hdrLog h)).isSome then (c.steps, s)
      else
        let s := s.rallyRun c (Config.pick s.nd 12 % rallyLimit)
        (c.steps + (hdrCount (s.rallyHdr c.cluster t) - hdrCount h), s)
  (k, s.dropCmd c.id)

/-- The budgets have granted a command every access of the unit of element `i` (R350). -/
def BankCmd.granted (c : BankCmd) (i : Nat) : Bool :=
  ((c.unitReads i).map (false, ·) ++ (c.unitWrites i).map (true, ·)).all fun q => !c.owed.contains q

/-- A memory-side command is reset (R347). One whose turn has not come has written nothing, nor has a unit whose lines have not been
granted (R125, R350); of the other writes each line is made or not, freely. How many elements count as done is then free. -/
def State.dropMemory (s : State) (c : BankCmd) : Nat × State :=
  let may (i : Nat) : Bool :=
    c.granted i && (c.unitWrites i).all fun va => Config.choice s.nd (9000000 + va / 128)
  if !s.bankTurn c || c.owed = c.load then (0, s.dropBank c.id)
  else
    let s := if c.kind < 2 then (s.bankMeet c (s.unread c (c.units.filter may))).bankWrites c may else s
    (Config.pick s.nd 14 % (c.n + 1), s.dropBank c.id)

/-- The commands of a node are reset, with the amount that the last one has done. -/
def State.dropWork (s : State) (slot : Nat) : Nat × State :=
  let (k, s) := (s.cmds.filter fun (c : EngCmd) => c.slot == slot).foldl (fun (a : Nat × State) c => a.2.dropEngine c) (0, s)
  (s.bank.filter fun (c : BankCmd) => c.slot == slot).foldl (fun (a : Nat × State) c => a.2.dropMemory c) (k, s)

/-- CPROG of a discarded node (R157). -/
def State.discardProg (s : State) (n : Node) (done : Nat) : Word :=
  if recKind n.words = 4 then BitVec.ofNat 64 n.prog
  else if n.isEngine then BitVec.ofNat 64 done
  else match s.ctxOf n.slot with
    | some c => c.last.setWidth 64
    | none => 0

/-- A discarded node returns to the pool for its one replay (R348): its tiles are free, its stores perform, its context goes, and so do
the requests that it had made (R344).
`reset` says that its cluster has been reset; a replay avoids a cluster or an engine that was. -/
def State.replayNode (s : State) (n : Node) (reset : Bool) : State :=
  let s := (s.dropAsks n.slot).releaseTiles n false
  let s := match s.ctxOf n.slot with
    | some c => s.releaseCaches c.cluster c.hart n.releaseScope
    | none => s
  let s := s.dropCtx n.slot
  let s := { s with streams := s.streams.map fun (h : HStream) =>
    { h with stalled := h.stalled.filter fun (q : Stall) => q.slot != n.slot } }
  (s.mapNode n.slot fun m => { m with
    stat := .ready, ready := s.time, cls := recPrio m.words, replay := true, watchOn := false, half := false, prog := 0
    stopped := if n.isEngine || reset then n.cluster + 1 else 0 }).retarget n.cluster

/-- The handler of a node that the watchdog has ended is submitted with ARG0 = CREC and no inputs (R348, R356). -/
def State.watchHandler (s : State) (n : Node) (cls : Nat) : State :=
  let h := wordAt n.words 10
  if h = 0 then s
  else
    let k := s.serial
    match s.submitHandler n.part n.asid h cls [] none with
    | none => (s.recordMet n.part n.asid h true).logEvent 0x176 0 n.part 1 2
    | some s => { s with nodes := s.nodes.map fun m => if m.serial = k then { m with words := m.words.set 11 n.crec } else m }

/-- A node whose limit has passed is discarded and settled (R347, R348). -/
def State.expire (s : State) (n : Node) (reset : Bool) : State :=
  let cls := s.raisedClass n
  let (k, s) := s.dropWork n.slot
  if (wordAt n.words 0).getLsbD 31 && !n.replay then s.replayNode n reset
  else
    let prog := s.discardProg n k
    (s.retireNode n.slot 3 0x173 prog 0 false).watchHandler n cls

/-- A cluster's caches are written back, what they have sent is applied, and they are empty, its translations with them. -/
def State.emptyCaches (s : State) (o : Nat) : State :=
  let s := (s.l1.filter fun (c : CLine) => c.owner / 8 == o && c.dirty != 0).foldl State.l1WriteBack s
  let s := { s with l1 := s.l1.filter fun (c : CLine) => c.owner / 8 != o }
  let s := (s.cc.filter fun (c : CLine) => c.owner == o && c.dirty != 0).foldl State.ccSend s
  let s := (s.sends.filter fun (t : Send) => t.cluster == o).foldl State.ownDrain s
  { s with
    cc := s.cc.filter fun (c : CLine) => c.owner != o
    gath := s.gath.filter fun (g : GLine) => g.owner != o
    icache := s.icache.filter fun (c : ILine) => c.owner != o
    tlb := s.tlb.filter fun (t : Tlb) => t.owner != o
    walks := s.walks.filter fun (w : WalkPtr) => w.owner != o }

/-- The cluster of a node that has not stopped within 2 µs is reset (R347): every other context is switched out, one that cannot be
is expired as well, and the caches are written back. -/
def State.resetCluster (s : State) (n : Node) : State :=
  let rest (s : State) : List Ctx := (s.resident n.cluster).filter fun c => c.slot != n.slot
  let s := (rest s).foldl (fun (s : State) c => s.switchOut c.slot) s
  let stuck := (rest s).filterMap fun c => s.node c.slot
  (n :: stuck).foldl (fun (s : State) m => s.expire m true) (s.emptyCaches n.cluster)

/-- WATCHDOG_EXPIRY. A word is one step, so whether the hardware reaches the end of its word within 2 µs is free (log 26). -/
def execWatchdogExpiry (slot : Nat) (s : State) : Out :=
  match s.node slot with
  | none => .next s
  | some n =>
    if !(n.counting && s.watchLimit n * periodTenths ≤ s.counted n) then .next s
    else if n.stat == .running && Config.choice s.nd 17 then .next (s.resetCluster n)
    else .next (s.expire n false)

/-! ### The time base (R67, R341, R350) -/

/-- The words of a table frame that may be other than zero. -/
def State.tableWords (s : State) (f : Nat) : List Nat :=
  let dram := s.mem.cells.filterMap fun c => if c.1 / 65536 = f then some (c.1 / 8 * 8) else none
  let cached := (s.l2.filter fun (c : CLine) => c.line / 512 == f).flatMap fun (c : CLine) =>
    (List.range 16).map fun k => 128 * c.line + 8 * k
  (dram ++ cached).eraseDups

/-- The leaves under a table entry of a partition (R16, R20). -/
def State.leavesUnder (s : State) (p : Nat) : Nat → Nat → Nat → List Leaf
  | 0, _, _ => []
  | fuel + 1, lvl, ea =>
    let (e, bad) := s.peek8 ea
    if bad || e % 2 == 0 || malformed e lvl then []
    else if e / 2 % 2 = 1 then [leafOf e (lvl == 2) ea]
    else
      let f := e / 65536 % 2 ^ 34
      if s.ownsFrame p f then (s.tableWords f).flatMap fun a => s.leavesUnder p fuel (lvl + 1) a else []

/-- Every leaf of a partition (R16). -/
def State.leavesOf (s : State) (p : Nat) : List Leaf :=
  let td := (s.partReg p).tdirb.toNat
  if !s.ownsFrame p (td / 65536) then []
  else ((s.tableWords (td / 65536)).filter fun a => td ≤ a && a < td + 32768).flatMap fun a => s.leavesUnder p 4 0 a

/-- A is cleared in a leaf by a compare-and-set at its home (R67). -/
def State.clearA (s : State) (l : Leaf) : State :=
  if !l.a then s
  else
    let e := (s.peek8 l.entry).1
    s.poke l.entry 1 ((BitVec.ofNat 8 e &&& 0xEF).toNat)

/-- The stager clears A in the leaves of fast-tier pages (R67). -/
def State.clearAll (s : State) : State :=
  (List.range 16).foldl (fun (s : State) p =>
    ((s.leavesOf p).filter fun l => region (65536 * l.frame) == .fast).foldl State.clearA s) s

/-- TIME_BASE_PERIOD: a boundary that the time has reached. The stager clears no A while a start is under way (R80). -/
def execTimeBasePeriod (s : State) : Out :=
  if 10 * s.time < periodTenths * (s.period + 1) then .next s
  else
    let s := { s.refill with period := s.period + 1, counters := (s.counters.map fun (e : Nat × Nat) => (e.1, e.2 / 2)).filter fun (e : Nat × Nat) => e.2 != 0 }
    .next (if s.rstctl.getLsbD 31 then s else s.clearAll)

end Sys2Proof.Machine
end

