-- ==== Sys2Proof/Machine/Stager.lean ====
section
/-! DEFINITION. The stager (03 R61-R68), the patrol scrubber (03 R74), frames and their owners (01 R37-R39), and key slots (01 R40,
03 R72). A migration takes two events: it begins when M is set, and it completes when the copy has been made. -/

namespace Sys2Proof.Machine

/-! ### Frame pools (R63) -/

/-- Eight bytes at a physical address beneath the L2, as a pool engine finds them for the stager. DESIGN CHOICE: poison of a frame pool's
descriptor or entry does not stop it, for neither is a consumer of R75's table (log 97). -/
def State.rawGet (s : State) (pa : Nat) : Nat := lineGet (s.dramRead (pa / 128) (s.heldKey (pa / 128))).1 (pa % 128) 8

/-- Eight bytes at a physical address beneath the L2, as a pool engine writes them. -/
def State.rawPut (s : State) (pa x : Nat) : State :=
  s.dramWrite (pa / 128) (s.heldKey (pa / 128)) (linePut 0 (pa % 128) 8 x) (byteSpan (pa % 128) 8) false

/-- The descriptor of a partition's frame pool: fast frames, or capacity frames. -/
def State.poolPa (s : State) (p : Nat) (fast : Bool) : Nat :=
  (if fast then (s.partReg p).stgfast else (s.partReg p).stgcap).toNat

/-- A pool's descriptor is read: the errors of its line are met (R73, R74). -/
def State.poolMeet (s : State) (pa : Nat) : State := if pa = 0 then s else s.meet (pa / 128)

/-- A pool of the stager can be served: its descriptor and the entry at index `k` lie in the fast tier (R271). -/
def State.poolLies (s : State) (pa k : Nat) : Bool :=
  region pa == .fast && region (s.rawGet pa + 8 * k) == .fast

/-- A frame popped (R63): one that the partition does not own, or of the other tier, is dropped and logged. PARR of these pools
is a physical address (R271). -/
def State.popFrame (s : State) (p : Nat) (fast : Bool) : Nat → Option Nat × State
  | 0 => (none, s)
  | fuel + 1 =>
    let pa := s.poolPa p fast
    let s := s.poolMeet pa
    let cnt := s.rawGet (pa + 0x10)
    if pa = 0 || cnt = 0 || s.rawGet (pa + 8) < cnt || !s.poolLies pa (cnt - 1) then (none, s)
    else
      let s := s.meet ((s.rawGet pa + 8 * (cnt - 1)) / 128)
      let f := s.rawGet (s.rawGet pa + 8 * (cnt - 1)) % 2 ^ 34
      let s := s.rawPut (pa + 0x10) (cnt - 1)
      if s.ownsFrame p f && region (65536 * f) == (if fast then .fast else .cap) then (some f, s)
      else (s.logEvent 0 (65536 * f) p 1 2).popFrame p fast fuel

/-- A frame pushed (R65). One whose pool is full, or named by no register, is dropped and logged (log 91). -/
def State.pushFrame (s : State) (p : Nat) (fast : Bool) (f : Nat) : State :=
  let pa := s.poolPa p fast
  let s := s.poolMeet pa
  let cnt := s.rawGet (pa + 0x10)
  if pa = 0 || s.rawGet (pa + 8) ≤ cnt || !s.poolLies pa cnt then s.logEvent 0 (65536 * f) p 1 2
  else (s.rawPut (s.rawGet pa + 8 * cnt) f).rawPut (pa + 0x10) (cnt + 1)

/-! ### The steps of a migration (R65, R67) -/

/-- A frame lies under a leaf. -/
def Leaf.spans (l : Leaf) (f : Nat) : Bool := l.frame ≤ f && f < l.frame + (if l.big then 8192 else 1)

/-- A command in flight uses a frame: its access was translated and has not been made (R22). -/
def State.frameBusy (s : State) (f : Nat) : Bool :=
  s.cmds.any (fun (c : EngCmd) => c.pages.any fun q => q.2.spans f)
    || s.bank.any (fun (c : BankCmd) => c.pages.any fun q => q.2.spans f)

/-- A registered stream uses a frame (R84). -/
def State.streamHolds (s : State) (f : Nat) : Bool := s.streams.any fun (h : HStream) => h.pages.any fun q => q.2.spans f

/-- A `pte.inv` of the stager for a page in a frame can complete now (R22): no access under the old entry is still to be made. -/
def State.mayInvalidate (s : State) (p f : Nat) : Bool := !s.frameBusy f && s.settles p

/-- No agent reaches memory: a warm start has not completed (R80). -/
def State.starting (s : State) : Bool := s.rstctl.getLsbD 31

/-- A leaf's entry written whole at its home. -/
def State.putEntry (s : State) (l : Leaf) (f : Nat → Nat) : State :=
  let e := (s.peek8 l.entry).1
  s.poke l.entry 8 (f e)

/-- Step 2: M is set in the leaf, with a `pte.inv` of its entry. -/
def State.beginMigration (s : State) (m : Migration) (l : Leaf) : State :=
  let s := s.putEntry l fun e => e ||| 0x100
  { s.invalidateLeaves m.part fun l => l.entry == m.entry with migs := s.migs ++ [m] }

/-- The lines of a frame copied to another, under the leaf's key; poison and the cleared code are carried (R65, R75). -/
def State.copyFrame (s : State) (key a b : Nat) : State :=
  (List.range 512).foldl (fun (s : State) k =>
    let src := 512 * a + k
    let dst := 512 * b + k
    let s := (s.meet src).healed dst
    let (d, p) := s.dramRead src key
    if s.ktags.any fun (t : KeyTag) => t.line == src then s.dramWrite dst key d fullMask p
    else { s with mem := (s.mem.setLine dst d).setPoison dst p, ktags := s.ktags.filter fun (t : KeyTag) => t.line != dst }) s

/-- The dirty bytes of a frame's lines leave the L2 for the channel, and the lines are dropped (R67). -/
def State.l2Flush (s : State) (hit : Nat → Bool) : State :=
  let s := (s.l2.filter fun (c : CLine) => hit c.line).foldl State.l2WriteBack s
  { s with l2 := s.l2.filter fun (c : CLine) => !hit c.line }

/-- Every cached line of a frame is invalidated without write-back (R39, R65). -/
def State.dropFrame (s : State) (f : Nat) : State :=
  let out (c : CLine) : Bool := c.line / 512 != f
  { s with
    l1 := s.l1.filter out, cc := s.cc.filter out, l2 := s.l2.filter out
    icache := s.icache.filter fun (c : ILine) => c.line / 512 != f
    gath := s.gath.filter fun (g : GLine) => g.elems.all fun e => e.1 / 65536 != f }

/-- Lines at the fast-tier frame charged to the staging budget: 64 on each channel of its octet (R349). -/
def State.chargeFrame (s : State) (f : Nat) : State :=
  (List.range 8).foldl (fun (s : State) k => s.charge (8 * octetOf (65536 * f) + k) .stage 64) s

/-- The channels of a frame's octet have staging budget left (R350). -/
def State.mayStage (s : State) (f : Nat) : Bool :=
  (List.range 8).all fun k => s.mayWork (8 * octetOf (65536 * f) + k) .stage

/-- Steps 3 to 6 of a migration. The writes of the graph engine that waited for it are made after it (R35). -/
def State.endMigration (s : State) (m : Migration) : State :=
  let l := leafOf (s.peek8 m.entry).1 false m.entry
  let s := s.flushLines fun k => k / 512 == m.old
  let s := if m.up then s else s.l2Flush fun k => k / 512 == m.old
  let s := { s with l2 := s.l2.filter fun (c : CLine) => c.line / 512 != m.new }
  let s := s.copyFrame l.key m.old m.new
  let s := s.putEntry l fun e =>
    (setBits (setBits (BitVec.ofNat 64 e) 16 34 m.new) 8 2 (if m.up then 0 else 2)).toNat
  let s := s.invalidateLeaves m.part fun l => l.entry == m.entry
  let s := (s.dropFrame m.old).pushFrame m.part (!m.up) m.old
  let s := s.chargeFrame (if m.up then m.new else m.old)
  { s with migs := s.migs.filter (· != m) }.payOwed

/-! ### Promotion (R64-R68) -/

/-- The working-set entry of a node that declares a page. -/
def Node.entryOf (n : Node) (page : Nat) : Option (Word × Word) :=
  n.wset.find? fun e => wsetValid e && (wsetPages e).contains page

/-- A promoted page settles: it joins the promoted ones, and where no node declares it any more it is marked first for demotion
(R67, R68). -/
def State.settlePromoted (s : State) (m : Migration) : State :=
  let s := { s with promoted := s.promoted.filter (fun x => x != (m.part, m.asid, m.page, true) && x != (m.part, m.asid, m.page, false))
              ++ [(m.part, m.asid, m.page, m.wi)] }
  let wanted := s.nodes.any fun n => n.part == m.part && n.asid == m.asid && (n.entryOf m.page).isSome
  if wanted then s else { s with marked := s.marked.filter (· != (m.part, m.entry)) ++ [(m.part, m.entry)] }

/-- A promotion begins (R65): a capacity-tier page of a node's working set, a frame from STGFAST, M in its leaf. -/
def State.startPromotion (s : State) (n : Node) (page : Nat) : State :=
  match n.entryOf page, s.pageLeaf n.part n.asid page with
  | some e, some l =>
    if s.starting || !s.stageOn n.part || !l.tier || l.big || l.m || 64 ≤ s.migs.length || !s.mayInvalidate n.part l.frame then s
    else match s.popFrame n.part true 65536 with
      | (none, t) => t
      | (some f, t) =>
        if !s.mayStage f then s
        else t.beginMigration
          { part := n.part, asid := n.asid, entry := l.entry, old := l.frame, new := f, up := true, page := page, wi := e.1.getLsbD 1 } l
  | _, _ => s

/-- STAGER_PROMOTION: the promotion of a page completes where it has begun, else it begins. -/
def execStagerPromotion (slot page : Nat) (s : State) : Out :=
  match s.migs.find? fun m => m.up && m.page == page && (s.node slot).all (fun n => n.part == m.part && n.asid == m.asid) with
  | some m => .next (if s.mayInvalidate m.part m.old then (s.endMigration m).settlePromoted m else s)
  | none => match s.node slot with
    | some n => .next (s.startPromotion n page)
    | none => .next s

/-! ### Demotion (R67) -/

/-- The leaf entries of a partition that are pinned by dispatched nodes (R64). -/
def State.pinned (s : State) (p : Nat) : List Nat :=
  let nodes := s.nodes.filter fun n => n.part == p && n.stat != .waiting && n.stat != .ready
  nodes.flatMap fun n => n.pages.filterMap fun g => (s.pageLeaf p n.asid g).map (·.entry)

/-- The leaf entries of the promoted pages of a partition, least recently promoted first, and whether each was promoted for writing. -/
def State.promotedLeaves (s : State) (p : Nat) : List (Nat × Bool) :=
  s.promoted.filterMap fun x => if x.1 = p then (s.pageLeaf p x.2.1 x.2.2.1).map fun l => (l.entry, x.2.2.2) else none

/-- The leaf entries of a partition's pages with write intent (R62, R67): promoted for writing, or declared with WI = 1 by a node of
the pool. -/
def State.writeIntents (s : State) (p : Nat) : List Nat :=
  ((s.promotedLeaves p).filter (·.2)).map (·.1)
    ++ (s.nodes.filter fun n => n.part == p).flatMap fun n =>
      (n.wset.filter fun e => wsetValid e && e.1.getLsbD 1).flatMap fun e =>
        (wsetPages e).filterMap fun g => (s.pageLeaf p n.asid g).map (·.entry)

/-- The page that the stager demotes next (R67): the oldest mark; then pages with A = 0, without write intent first; then the
least recently promoted. Among pages that the rule does not tell apart the choice is free (log 2). DESIGN CHOICE: pages that were never
promoted come before every promoted one (log 95). -/
def State.demotable (s : State) (p : Nat) : Option Leaf :=
  let pins := s.pinned p
  let ls := (s.leavesOf p).filter fun l =>
    !l.big && !l.m && region (65536 * l.frame) == .fast && !pins.contains l.entry && !s.streamHolds l.frame
      && s.mayInvalidate p l.frame
  let any (q : List Leaf) : Option Leaf := q[Config.pick s.nd 17 % max 1 q.length]?
  let marked := s.marked.findSome? fun m => if m.1 = p then ls.find? fun l => l.entry == m.2 else none
  let cold := ls.filter fun l => !l.a
  let wi := s.writeIntents p
  let raised := s.promotedLeaves p
  let plain := cold.filter fun l => !wi.contains l.entry
  let never := ls.filter fun l => raised.all fun x => x.1 != l.entry
  let oldest := raised.findSome? fun x => ls.find? fun l => l.entry == x.1
  ((((marked.orElse fun _ => any plain).orElse fun _ => any cold).orElse fun _ => any never).orElse fun _ => oldest)

/-- A demotion begins (R67). -/
def State.startDemotion (s : State) (p : Nat) : State :=
  match s.demotable p with
  | none => s
  | some l =>
    if s.starting || !s.stageOn p || 64 ≤ s.migs.length || !s.mayStage l.frame then s
    else match s.popFrame p false 65536 with
      | (none, t) => t
      | (some f, t) => t.beginMigration
          { part := p, asid := 0, entry := l.entry, old := l.frame, new := f, up := false, page := 0, wi := false } l

/-- STAGER_DEMOTION: a partition's demotion completes where one has begun, else one begins. -/
def execStagerDemotion (part : Nat) (s : State) : Out :=
  match s.migs.find? fun m => !m.up && m.part == part with
  | some m =>
    if !s.mayInvalidate m.part m.old then .next s
    else
      let s := s.endMigration m
      let gone (x : Nat × Nat × Nat × Bool) : Bool :=
        x.1 == m.part && (s.pageLeaf x.1 x.2.1 x.2.2.1).any fun l => l.entry == m.entry
      .next { s with marked := s.marked.filter (· != (m.part, m.entry)), promoted := s.promoted.filter fun x => !gone x }
  | none => .next (s.startDemotion part)

/-- STAGING_WAIT_EXPIRY (R64): a hold is read off the time, so nothing else changes when WAIT has passed. -/
def execStagingWaitExpiry (_slot : Nat) (s : State) : Out := .next s

/-! ### The scrubber (R39, R74) -/

/-- PATROL_SCRUB_LINE: a line is read within the budget of its channel. An uncorrectable error becomes poison and is logged, a
corrected one is counted and rewritten: the one that the event brings, or one that the stored line has already. The rewrite is a second
access of the line, and one event with the read, for which the credit must reach as far as it can (R74, R350; log 94). -/
def execPatrolScrubLine (line : Nat) (found : ScrubFind) (s : State) : Out :=
  let r := region (128 * line)
  let fast := r == .fast
  let hard := found == .uncorrectable || s.latent.contains (line, true)
  let soft := found == .correctable || s.latent.contains (line, false)
  let lines : Nat := if hard || soft then 2 else 1
  if s.starting || !(fast || r == .cap || r == .reserve) || (fast && s.credit (sliceOf line) .scrub < min lines (max 1 (s.allowance .scrub))) then .next s
  else
    let t := (if fast then s.charge (sliceOf line) .scrub lines else s).healed line
    .next <| if hard then { t with mem := t.mem.setPoison line true }.logEvent 0 (128 * line) 16 1 2
      else if soft then t.logEvent 0 (128 * line) 16 1 2
      else t

/-- FRAME_SCRUB (R39, R84): steps 2 to 5 for a frame in quarantine: its translations and cached lines go, its streams retire,
its lines are cleared, and QUAR clears. -/
def execFrameScrub (frame : Nat) (s : State) : Out :=
  let b := s.frameByte frame
  let on (l : Leaf) : Bool := l.spans frame
  let users := (List.range 16).filter fun p => s.tlb.any fun t => t.part == p && on t.leaf
  if s.starting || !b.getLsbD 6 || s.frameBusy frame || !users.all s.settles then .next s
  else
    let s := users.foldl (fun (s : State) p => s.invalidateLeaves p on) s
    let s := (s.streams.filter fun (h : HStream) => h.pages.any fun q => on q.2).foldl State.retireStream s
    let s := (s.sends.filter fun (t : Send) => t.line / 512 == frame).foldl State.ownDrain s
    let s := s.dropFrame frame
    .next { s with
      mem := s.mem.clear (512 * frame) (512 * frame + 512)
      ktags := s.ktags.filter fun (t : KeyTag) => t.line / 512 != frame
      latent := s.latent.filter fun e => e.1 / 512 != frame
      fot := (frameIndex frame, b &&& 0xBF#8) :: s.fot.filter fun (e : Nat × Byte) => e.1 != frameIndex frame }

/-! ### Frames and keys (R37, R40, R72) -/

/-- FRAME_OWNER_TABLE_WRITE: a fast-tier frame may be assigned only to the partition of its octet; QUAR is cleared by the scrubber
alone. -/
def execFrameOwnerTableWrite (frame : Nat) (val : Byte) (s : State) : Out :=
  let r := region (65536 * frame)
  let old := s.frameByte frame
  if s.starting then .next s
  else if !(r == .fast || r == .cap) then .next (s.logEvent 0 (65536 * frame) 16 1 2)
  else if val.getLsbD 7 && r == .fast && s.octetPart (octetOf (65536 * frame)) != some (bits val 0 4) then
    .next (s.logEvent 0 (65536 * frame) (bits val 0 4) 1 2)
  else
    let v := (val &&& 0xCF#8) ||| (old &&& 0x40#8)
    .next { s with fot := (frameIndex frame, v) :: s.fot.filter fun (e : Nat × Byte) => e.1 != frameIndex frame }

/-- KEY_SLOT_REKEY (R72): the slot's L2 lines are written back under the old key and dropped, and its generation advances.
`allot` 0 keeps the slot's allotment, 1 + p allots it to partition p, and a greater number to none (R40). -/
def execKeySlotRekey (key allot : Nat) (s : State) : Out :=
  let id := key % 1024
  let old := s.keys.find? fun x => x.id == id
  let part := if allot = 0 then old.bind (·.part) else if allot ≤ 16 then some (allot - 1) else none
  let s := (s.l2.filter fun (c : CLine) => c.key == id).foldl State.l2WriteBack s
  .next { s with
    l2 := s.l2.filter fun (c : CLine) => c.key != id
    keys := { id := id, part := part, gen := s.keyGen id + 1 } :: s.keys.filter fun x => x.id != id }

end Sys2Proof.Machine
end

