-- ==== Sys2Proof/Machine/Resets.lean ====
section
/-! DEFINITION. Cold starts and warm resets (03 R77-R80), and the firmware image (23 R389-R391). -/

namespace Sys2Proof.Machine

/-! ### What a reset keeps (R78) -/

/-- The module as a reset leaves it: memory and its tags, the frame owner table, the keys, the log, the always-on domain and what
has left the module are kept; everything else stands as `State.reset` has it. -/
def State.reboot (s : State) : State :=
  { State.reset with
    agenda := s.agenda, nd := s.nd, mem := s.mem, latent := s.latent, ktags := s.ktags, fot := s.fot, keys := s.keys, log := s.log
    msix := s.msix, outbox := s.outbox, replies := s.replies, fw := s.fw, rstctl := s.rstctl
    links := s.links.map fun (l : Link) => { port := l.port, lane := l.lane } }

/-- Every DRAM line cleared, the frame owner table among them (R37, R73, R78; log 31). -/
def State.clearDram (s : State) : State := { s with mem := {}, latent := [], ktags := [], fot := [] }

/-- New keys in every slot (R72). -/
def State.newKeys (s : State) : State := { s with keys := s.keys.map fun (k : KeySlot) => { k with gen := k.gen + 1 } }

/-- M cleared in the leaf of a begun migration, whose old frame stays mapped; its new frame returns to its pool (R78). -/
def State.undoMigration (s : State) (m : Migration) : State :=
  (s.rawPut m.entry ((BitVec.ofNat 64 (s.rawGet m.entry) &&& ~~~(0x100 : Word)).toNat)).pushFrame m.part m.up m.new

/-- The end of a warm reset, once the caches are empty: migrations are undone, keys are kept or made anew (R78), and BUSY is
set until the warm start completes (R80). -/
def State.restart (s : State) : State :=
  let s := s.migs.foldl State.undoMigration { s with l1 := [], cc := [], gath := [], l2 := [], sends := [] }
  let s := s.reboot
  let s := if s.rstctl.getLsbD 1 then s else s.newKeys.clearDram
  { s with rstctl := s.rstctl ||| 0x80000000 }

/-! ### Orderly (R77, R78) -/

/-- Every dirty byte goes to its home, and every L2 line to its channel (R78). -/
def State.flushAll (s : State) : State :=
  let s := s.flushLines fun _ => true
  let s := s.sends.foldl State.applySend s
  s.l2.foldl State.l2WriteBack s

/-- WARM: the orderly warm reset that a write of 1 to RSTCTL.WARM requests. -/
def execWarm (s : State) : Out := .next s.flushAll.restart

/-! ### Fault-triggered (R78, R79) -/

/-- The dirty lines that a cluster's L1s and cluster cache lose. -/
def State.lostLines (s : State) (o : Nat) : Nat :=
  (s.l1.filter fun (c : CLine) => c.owner / 8 == o && c.dirty != 0).length
    + (s.cc.filter fun (c : CLine) => c.owner == o && c.dirty != 0).length

/-- Writes in flight: each is applied at its home, or lost with the fabric, freely, in causal order (R109; log 32). -/
def State.crashSends (s : State) : State :=
  s.sends.foldl (fun (s : State) t =>
    if Config.choice s.nd (12000000 + t.num) && s.canApply t then s.applySend t else s) s

/-- A slice's dirty lines become poison at home and are logged; a slice that cannot complete this, freely, poisons some of them
and its octet is marked unreliable in the log (R79). -/
def State.poisonSlice (s : State) (k : Nat) : State :=
  let ls := ((s.l2.filter fun (c : CLine) => c.owner == k && c.dirty != 0).map fun (c : CLine) => c.line)
  if ls.isEmpty then s
  else
    let whole := Config.choice s.nd (10000000 + k)
    let hit := ls.filter fun l => whole || Config.choice s.nd (11000000 + l)
    let s := hit.foldl (fun (s : State) l => { s with mem := s.mem.setPoison l true }) s
    if whole then (ls.take 16).foldl (fun (s : State) l => s.logEvent 0 (128 * l) 16 ls.length 2) s
    else s.logEvent 0 (2 ^ 34 * (k / 8)) 16 1 2

/-- FAULT_TRIGGERED_WARM_RESET. -/
def execFaultTriggeredWarmReset (s : State) : Out :=
  let s := (List.range 128).foldl (fun (s : State) o =>
    if s.lostLines o = 0 then s else s.logEvent 0 0 16 (s.lostLines o) 2) s
  let s := s.crashSends
  .next ((List.range 384).foldl State.poisonSlice s).restart

/-- WARM_START_COMPLETE (R80): the module accepts work again, where a verified image runs (R390). -/
def execWarmStartComplete (s : State) : Out :=
  .next (if s.fw.live then { s with rstctl := s.rstctl &&& ~~~(0x80000000 : BitVec 32) } else s)

/-! ### Cold start (R389, R390) -/

/-- The flash image passes both checks of the boot ROM (R390). -/
def Firmware.verified (f : Firmware) : Bool := f.valid && f.fuse ≤ f.version

/-- The fuses and the running image after a start (R390, R391): where the flash image fails, the recovery image `other`, if that passes
the same checks, and else none that is verified. -/
def Firmware.boot (f : Firmware) (other : Nat) : Firmware :=
  if f.verified then
    { f with running := f.image, live := true, recovery := false, raise := false
             fuse := if f.raise then max f.fuse f.version else f.fuse }
  else if Config.fwValid other && f.fuse ≤ Config.fwVersion other then { f with running := other, live := true, recovery := true }
  else { f with live := false, recovery := true }

/-- COLD_START: every line cleared, every key new, every register at its reset value, and the repair maps discovered, freely. The
recovery image is the management interface's, freely. Where no verified image runs, the module accepts no work: BUSY stays 1 (R389,
R390). -/
def execColdStart (s : State) : Out :=
  let fw := s.fw.boot (Config.pick s.nd 22)
  let t := s.newKeys.clearDram.reboot
  .next { t with
    keys := t.keys.map fun (k : KeySlot) => { k with part := none }
    links := [], rstctl := if fw.live then 0 else 0x80000000, fw := { fw with maps := Config.pick s.nd 23 } }

/-- FIRMWARE_UPDATE (R391): staged, verified, written in place; an interruption, freely, leaves the old image or one that fails
verification. It takes effect at the next cold start. -/
def execFirmwareUpdate (image : Nat) (s : State) : Out :=
  let f := { s.fw with staged := some image }
  if !(Config.fwValid image && f.fuse ≤ Config.fwVersion image) || Config.choice s.nd 14 then .next { s with fw := f }
  else if Config.choice s.nd 15 then .next { s with fw := { f with valid := false } }
  else .next { s with fw := { f with
    image := image, version := Config.fwVersion image, valid := true, raise := Config.fwRaises image } }

end Sys2Proof.Machine
end

