-- ==== Sys2Proof/Machine/DevRegs.lean ====
section
/-! DEFINITION. The device registers and what writing them does (02 R54, R56, R57; 03 R63, R77; 19 R339, R349; 23 R382-R386). -/

namespace Sys2Proof.Machine

/-! ### Registers by place -/

/-- The physical address of a register of a partition's block (R382). -/
def blockPa (p off : Nat) : Nat := 0x40000010000 + 65536 * p + off

/-- A refused write of a partition's register, logged (R57, R339, R384). -/
def State.refuseWrite (s : State) (p off : Nat) : State := s.logEvent 0 (blockPa p off) p 1 2

/-- The registers of a partition changed. -/
def State.mapPart (s : State) (p : Nat) (f : Part → Part) : State :=
  { s with parts := s.parts.setIfInBounds p (f (s.partReg p)) }

/-- A write of a partition that exists. -/
def onPart (p : Nat) (f : State → State) (s : State) : Out := .next (if p < 16 then f s else s)

/-- A device register as system software reads it (R382, R383), from an offset in it to its end, as one value: reserved offsets and
write-only registers read 0. -/
def State.registerRead (s : State) (off : Nat) : Nat :=
  if off < 65536 then
    match off with
    | 0x10 => s.rstctl.toNat
    | 0x20 => s.pwrstat.toNat
    | 0x300 => s.budg0.toNat
    | 0x308 => s.budg1.toNat
    | _ => 0
  else if 17 * 65536 ≤ off then 0
  else
    let r := s.partReg (off / 65536 - 1)
    match off % 65536 with
    | 0x0 => r.ppol.toNat
    | 0x8 => r.poct.toNat
    | 0x10 => r.pclu.toNat
    | 0x18 => (r.pclu >>> 64).toNat
    | 0x20 => r.plink.toNat
    | 0x28 => (r.plink >>> 64).toNat
    | 0x30 => (r.plink >>> 128).toNat
    | 0x38 => r.tdirb.toNat
    | 0x100 => r.subbase.toNat
    | 0x110 => r.subci.toNat
    | 0x140 => r.drcnt.toNat
    | 0x180 => r.l2scr.toNat
    | 0x1C0 => r.stgctl.toNat
    | 0x1C8 => r.stgstat.toNat
    | 0x1D0 => r.stgfast.toNat
    | 0x1D8 => r.stgcap.toNat
    | 0x200 => r.psched.toNat
    | _ => 0

/-! ### Submission (R385) -/

/-- LAUNCH. -/
def execLaunch (part : Nat) (val : Word) (s : State) : Out := onPart part (fun s => s.launchWrite part val) s

/-- INTPOST. -/
def execIntpost (part : Nat) (val : Word) (s : State) : Out := onPart part (fun s => s.intpostWrite part val) s

/-- Sixteen bytes of a ring entry, with the poison of their line; a ring is read by physical address (log 11). -/
def State.ringRead (s : State) (pa : Nat) : (Nat × Bool) × State :=
  match region pa with
  | .root | .remote => ((freeBytes s.nd pa 16, false), { s with nd := s.nd + 1 })
  | .device => ((low (s.registerRead (pa - 0x40000000000)) 64
      + 2 ^ 64 * low (s.registerRead (pa + 8 - 0x40000000000)) 64, false), s)
  | .hole => ((0, false), s)
  | _ =>
    let ((d, bad), s) := s.homeRead sysAgent (pa / 128) (s.heldKey (pa / 128)) false
    ((lineGet d (pa % 128) 16, bad), s)

/-- A ring entry breaks no rule of R385. -/
def ringOk (w0 w1 : Word) : Bool :=
  bits w0 1 6 == 0 && bits w0 55 9 == 0 && bits w1 12 52 == 0 && (!w0.getLsbD 0 || bits w0 7 1 == 0)

/-- The entry at SUBCI read and submitted; SUBCI always advances (R385). -/
def State.takeRing (s : State) (p : Nat) : State :=
  let r := s.partReg p
  let pa := r.subbase.toNat + 16 * (r.subci.toNat % 2048)
  let ((x, bad), t) := s.ringRead pa
  let w0 : Word := BitVec.ofNat 64 x
  let w1 : Word := BitVec.ofNat 64 (x / 2 ^ 64)
  let va : Word := w0 &&& 0x007FFFFFFFFFFF80
  let asid := bits w1 0 12
  let t := if bad then t.logEvent (causeCode 3 6 0) pa p 1 1
    else if !ringOk w0 w1 then t.logEvent 0x170 pa p 1 1
    else match (if w0.getLsbD 0 then t.submitLaunch p asid va else t.submit p asid va) with
      | .ok u => u
      | .error e =>
        (t.submitMet p asid va (if w0.getLsbD 0 then 256 else 128) e).logEvent (match e with
          | .refused => 0x170
          | .fault c k _ => causeCode c 6 k) pa p 1 1
  t.mapPart p fun r => { r with subci := r.subci + 1 }

/-- SUBMISSION_RING_ENTRY: the next pending entry of a partition. A ring that SUBBASE puts at no address of the map stops the
machine. -/
def execSubmissionRingEntry (part : Nat) (s : State) : Out :=
  if 16 ≤ part || (s.partReg part).launch = (s.partReg part).subci || s.rstctl.getLsbD 31 then .next s
  else if region (s.partReg part).subbase.toNat = .hole then .fault (.noSuchAddress (s.partReg part).subbase.toNat)
  else .next (s.takeRing part)

/-! ### L2 scratch ways (R57) -/

/-- L2SCR. DESIGN CHOICE: WAYS reads as it was until BUSY clears, and a write of WAYS with the value it has sets BUSY and empties the
window as any other does (log 95). -/
def execL2scr (part : Nat) (val : Word) (s : State) : Out :=
  onPart part (fun s =>
    let w := bits val 0 4
    if 13 ≤ w || (s.partReg part).l2scr.getLsbD 31 then s.refuseWrite part 0x180
    else s.mapPart part fun r => { r with l2scr := r.l2scr ||| 0x80000000, l2next := BitVec.ofNat 4 w }) s

/-- Every line of a slice written back and dropped that its set holds beyond `ways`, least recently used first (log 10). -/
def State.shrinkSlice (s : State) (k ways : Nat) : State :=
  let mine := s.l2.filter fun (c : CLine) => c.owner == k
  let (keep, out) := mine.foldl (fun (a : List CLine × List CLine) c =>
    if (a.1.filter fun (d : CLine) => l2Set d.line == l2Set c.line).length < ways then (a.1 ++ [c], a.2) else (a.1, a.2 ++ [c]))
    ([], [])
  let s := out.foldl State.l2WriteBack s
  { s with l2 := keep ++ s.l2.filter fun (c : CLine) => c.owner != k }

/-- The scratch bytes of a slice zeroed. -/
def State.zeroScratch (s : State) (k : Nat) : State := { s with l2s := s.l2s.clear (8192 * k) (8192 * k + 8192) }

/-- L2_WAY_CONVERSION_DONE: steps 2 to 4. -/
def execL2WayConversionDone (part : Nat) (s : State) : Out :=
  onPart part (fun s =>
    let r := s.partReg part
    if !r.l2scr.getLsbD 31 then s
    else
      let s := (s.partSlices part).foldl (fun (s : State) k => (s.shrinkSlice k (16 - r.l2next.toNat)).zeroScratch k) s
      s.mapPart part fun r => { r with l2scr := r.l2next.setWidth 32, l2next := 0 }) s

/-! ### Policy and scheduling (R339, R384) -/

/-- PSCHED. -/
def execPsched (part : Nat) (val : Word) (s : State) : Out :=
  onPart part (fun s =>
    if bits val 16 8 = 0 ∨ bits val 32 16 = 0 then s.refuseWrite part 0x200
    else s.mapPart part fun r => { r with psched := val &&& 0x0000FFFF00FF00FF }) s

/-- Every context of a partition leaves its hart, as soon as it can (R384). -/
def State.preemptAll (s : State) (p : Nat) : State :=
  (((s.cur :: s.others).filter fun (c : Ctx) => c.status == .running && c.part == p).map fun (c : Ctx) => c.slot).foldl
    State.preempt s

/-- PPOL. -/
def execPpol (part : Nat) (val : Word) (s : State) : Out :=
  onPart part (fun s =>
    let cap := bits val 0 3
    if cap ≠ 3 ∧ cap ≠ 4 then s.refuseWrite part 0
    else
      let was := s.enabled part
      let s := s.mapPart part fun r => { r with ppol := val &&& 0x80000707 }
      if was && !val.getLsbD 31 then s.preemptAll part else s) s

/-! ### Staging registers (R63) -/

/-- STGSTAT: VALID is cleared by a write of 1. -/
def execStgstat (part : Nat) (val : Word) (s : State) : Out :=
  onPart part (fun s =>
    if val.getLsbD 63 then s.mapPart part fun r => { r with stgstat := r.stgstat &&& 0x7FFFFFFFFFFFFFFF } else s) s

/-- STGCTL: clearing EN releases every held node, which R64 reads off the register. -/
def execStgctl (part : Nat) (val : Word) (s : State) : Out :=
  onPart part (fun s => s.mapPart part fun r => { r with stgctl := val.setWidth 32 &&& 0x8000FFFF }) s

/-! ### Octets, clusters and ports (R54, R56, R384) -/

/-- A partition may not be taken from or given to: it is enabled, or a node of it is resident, on a hart or at an engine (R384; log 33). -/
def State.partitionBusy (s : State) (p : Nat) : Bool :=
  s.enabled p || s.nodes.any fun n => n.part == p && (n.stat == .running || n.stat == .engine)

/-- An octet passes to another partition: its slices are written back, emptied and cleared of scratch (R56). -/
def State.moveOctet (s : State) (o : Nat) : State :=
  let mine (c : CLine) : Bool := c.owner / 8 == o
  let s := (s.l2.filter mine).foldl State.l2WriteBack s
  (List.range 8).foldl (fun (s : State) k => s.zeroScratch (8 * o + k)) { s with l2 := s.l2.filter fun c => !mine c }

/-- A cluster passes to another partition: its caches are written back and invalidated, and its tiles are zeroed and free (R54). -/
def State.moveCluster (s : State) (o p : Nat) : State :=
  { s.emptyCaches o with
    regions := s.regions.filter fun (r : Region) => r.cluster != o
    tmem := s.tmem.clear (65536 * o) (65536 * o + 65536)
    tiles := (List.range 128).map (fun n => { cluster := o, n := n, owner := ownerField 0 0 p 0 0, clear := true })
      ++ s.tiles.filter fun (t : Tile) => t.cluster != o }

/-- The bits that a partition owns of a kind. -/
def Part.owned (r : Part) : PartRes → Nat
  | .poct => r.poct.toNat
  | .pclu => r.pclu.toNat
  | .plink => r.plink.toNat

/-- The bits of a kind written. -/
def Part.own (r : Part) (k : PartRes) (x : Nat) : Part :=
  match k with
  | .poct => { r with poct := BitVec.ofNat 48 x }
  | .pclu => { r with pclu := BitVec.ofNat 128 x }
  | .plink => { r with plink := BitVec.ofNat 144 x }

/-- The number of units of a kind, and its register's offset. -/
def resBits : PartRes → Nat
  | .poct => 48
  | .pclu => 128
  | .plink => 144

/-- The offset of a kind's register (R383). -/
def resOff : PartRes → Nat
  | .poct => 8
  | .pclu => 0x10
  | .plink => 0x20

/-- POCT, PCLU or PLINK written: refused while the partition, or one that would lose a unit, is in use (R384; log 33). -/
def State.writeRes (s : State) (p : Nat) (k : PartRes) (val : Nat) : State :=
  let new := val % 2 ^ resBits k
  let gained := (List.range (resBits k)).filter fun i => new.testBit i && !((s.partReg p).owned k).testBit i
  let others := (List.range 16).filter fun q => q != p && gained.any fun i => ((s.partReg q).owned k).testBit i
  if s.partitionBusy p || others.any s.partitionBusy then s.refuseWrite p (resOff k)
  else
    let s := gained.foldl (fun (s : State) i => match k with
      | .poct => s.moveOctet i
      | .pclu => s.moveCluster i p
      | .plink => s) s
    let s := others.foldl (fun (s : State) q => s.mapPart q fun r =>
      r.own k (gained.foldl (fun x i => if x.testBit i then x - 2 ^ i else x) (r.owned k))) s
    s.mapPart p fun r => r.own k new

/-- PARTITION_RESOURCE_WRITE. -/
def execPartitionResourceWrite (part : Nat) (res : PartRes) (val : Nat) (s : State) : Out :=
  onPart part (fun s => s.writeRes part res val) s

/-! ### Any device register by its offset (R382, R383) -/

/-- A reserved offset: ignored and logged, under the partition in whose block it lies. -/
def State.reservedWrite (s : State) (off : Nat) : State :=
  let p := if 65536 ≤ off ∧ off < 17 * 65536 then off / 65536 - 1 else 16
  s.logEvent 0 (0x40000000000 + off) p 1 2

/-- `n` bytes of a register replaced from byte `k` on: one access is one change of the register (R382). -/
def withBytes (x k n : Nat) (val : LineVal) : Nat :=
  x % 2 ^ (8 * k) + 2 ^ (8 * k) * (val.toNat % 2 ^ (8 * n)) + 2 ^ (8 * (k + n)) * (x / 2 ^ (8 * (k + n)))

/-- A write of `n` bytes within a partition's block. -/
def blockWrite (p off n : Nat) (wide : LineVal) (s : State) : Out :=
  let r := s.partReg p
  let val : Word := wide.setWidth 64
  match off with
  | 0x0 => execPpol p val s
  | 0x8 => .next (s.writeRes p .poct val.toNat)
  | 0x10 | 0x18 => .next (s.writeRes p .pclu (withBytes r.pclu.toNat (off - 0x10) (min n (0x20 - off)) wide))
  | 0x20 | 0x28 | 0x30 => .next (s.writeRes p .plink (withBytes r.plink.toNat (off - 0x20) (min n (0x38 - off)) wide))
  | 0x38 => .next (s.mapPart p fun r => { r with tdirb := val &&& 0x0003FFFFFFFF0000 })
  | 0x100 => .next (s.mapPart p fun r => { r with subbase := val &&& 0x0003FFFFFFFF8000 })
  | 0x108 => execLaunch p val s
  | 0x110 => .next s
  | 0x140 => .next (s.mapPart p fun r => { r with drcnt := val.setWidth 48 })
  | 0x148 => execIntpost p val s
  | 0x180 => execL2scr p val s
  | 0x1C0 => execStgctl p val s
  | 0x1C8 => execStgstat p val s
  | 0x1D0 => .next (s.mapPart p fun r => { r with stgfast := val &&& 0x0003FFFFFFFFFFC0 })
  | 0x1D8 => .next (s.mapPart p fun r => { r with stgcap := val &&& 0x0003FFFFFFFFFFC0 })
  | 0x200 => execPsched p val s
  | _ => .next (s.reservedWrite (65536 * (p + 1) + off))

/-- RSTCTL (R77): KRET is only ever set, and WARM requests a reset. -/
def rstctlWrite (val : Word) (s : State) : Out :=
  let s := if val.getLsbD 1 then { s with rstctl := s.rstctl ||| 2 } else s
  if val.getLsbD 0 then execWarm s else .next s

/-- REGISTER_WRITE: a write by system software at an offset of the region, which changes its register at once; read-only registers
do not change. -/
def execRegisterWrite (off : Nat) (d : RegBytes) (s : State) : Out :=
  let val : Word := d.val.setWidth 64
  if off < 65536 then
    match off with
    | 0x10 => rstctlWrite val s
    | 0x20 => .next s
    | 0x300 => .next { s with budg0 := val }
    | 0x308 => .next { s with budg1 := val &&& 0xFFFF }
    | _ => .next (s.reservedWrite off)
  else if off < 17 * 65536 then blockWrite (off / 65536 - 1) (off % 65536) d.n d.val s
  else .next (s.reservedWrite off)

end Sys2Proof.Machine
end

