-- ==== Sys2Proof/Machine/Fp.lean ====
section
/-! DEFINITION. Scalar FP32 instructions (10 R217-R220). -/

namespace Sys2Proof.Machine

/-- The FP32 pattern in bits [31:0] (R218). -/
def f32Of (x : Word) : Nat := low x.toNat 32

/-- The FP32 value in bits [31:0] (R218). -/
def valOf (x : Word) : FVal := decodeFp fmtF32 (f32Of x)

/-! ### Shapes: each takes operands as words and gives the register's value and the flags -/

/-- A fixed-latency FP32 instruction of one operand; `half` where it reads [31:0] only (R363). -/
def fp1 (half : Bool) (rd a : Reg) (f : Word → Nat × Flags) (s : State) : Out :=
  if s.badS half [a] then s.poisonS
  else
    let (x, fl) := f (s.opS 0 a)
    (s.produceFixed [(.s rd.toNat, x)] fl).retire

/-- A fixed-latency FP32 instruction of two operands. -/
def fp2 (rd a b : Reg) (f : Word → Word → Nat × Flags) (s : State) : Out :=
  if s.badS true [a, b] then s.poisonS
  else
    let (x, fl) := f (s.opS 0 a) (s.opS 1 b)
    (s.produceFixed [(.s rd.toNat, x)] fl).retire

/-- A fixed-latency FP32 instruction of three operands. -/
def fp3 (rd a b c : Reg) (f : Word → Word → Word → Nat × Flags) (s : State) : Out :=
  if s.badS true [a, b, c] then s.poisonS
  else
    let (x, fl) := f (s.opS 0 a) (s.opS 1 b) (s.opS 2 c)
    (s.produceFixed [(.s rd.toNat, x)] fl).retire

/-- A comparison's 64-bit 1 or 0, with no flag (R219). -/
def fpBool (b : Bool) : Nat × Flags := (if b then 1 else 0, 0)

/-- A conversion from an integer (R220). -/
def intToF32 (m : Rm) (z : Int) : Nat × Flags := roundInt fmtF32 m false z 0

/-! ### Arithmetic (R218) -/

/-- FADD. -/
def execFadd (rd rs1 rs2 : Reg) (rm : Rm) (s : State) : Out :=
  fp2 rd rs1 rs2 (fun a b => addFp fmtF32 (s.cur.mode rm) (valOf a) (valOf b)) s
/-- FSUB. -/
def execFsub (rd rs1 rs2 : Reg) (rm : Rm) (s : State) : Out :=
  fp2 rd rs1 rs2 (fun a b => addFp fmtF32 (s.cur.mode rm) (valOf a) (valOf b).neg) s
/-- FMUL. -/
def execFmul (rd rs1 rs2 : Reg) (rm : Rm) (s : State) : Out :=
  fp2 rd rs1 rs2 (fun a b => mulFp fmtF32 (s.cur.mode rm) (valOf a) (valOf b)) s
/-- FDIV: a variable-latency producer. -/
def execFdiv (rd rs1 rs2 : Reg) (rm : Rm) (s : State) : Out :=
  if s.badS true [rs1, rs2] then s.poisonS
  else
    let a := s.opS 0 rs1
    let b := s.opS 1 rs2
    let (x, fl) := divFp fmtF32 (s.cur.mode rm) (valOf a) (valOf b)
    (s.produceVar [{ reg := .s rd.toNat, val := x }] fl none [a, b]).retire
/-- FSQRT: a variable-latency producer. -/
def execFsqrt (rd rs1 : Reg) (rm : Rm) (s : State) : Out :=
  if s.badS true [rs1] then s.poisonS
  else
    let a := s.opS 0 rs1
    let (x, fl) := sqrtFp fmtF32 (s.cur.mode rm) (valOf a)
    (s.produceVar [{ reg := .s rd.toNat, val := x }] fl none [a]).retire
/-- FFMA. -/
def execFfma (rd rs1 rs2 rs3 : Reg) (rm : Rm) (s : State) : Out :=
  fp3 rd rs1 rs2 rs3 (fun a b c => fmaFp fmtF32 (s.cur.mode rm) (valOf a) (valOf b) (valOf c)) s

/-! ### Without rounding (R219) -/

/-- FMIN. -/
def execFmin (rd rs1 rs2 : Reg) (s : State) : Out :=
  fp2 rd rs1 rs2 (fun a b => (minMaxFp fmtF32 false (f32Of a) (f32Of b), 0)) s
/-- FMAX. -/
def execFmax (rd rs1 rs2 : Reg) (s : State) : Out :=
  fp2 rd rs1 rs2 (fun a b => (minMaxFp fmtF32 true (f32Of a) (f32Of b), 0)) s
/-- FCMP_EQ. -/
def execFcmpEq (rd rs1 rs2 : Reg) (s : State) : Out := fp2 rd rs1 rs2 (fun a b => fpBool (cmpFp .eq (valOf a) (valOf b))) s
/-- FCMP_LT. -/
def execFcmpLt (rd rs1 rs2 : Reg) (s : State) : Out := fp2 rd rs1 rs2 (fun a b => fpBool (cmpFp .lt (valOf a) (valOf b))) s
/-- FCMP_LE. -/
def execFcmpLe (rd rs1 rs2 : Reg) (s : State) : Out := fp2 rd rs1 rs2 (fun a b => fpBool (cmpFp .le (valOf a) (valOf b))) s
/-- FCMP_UO. -/
def execFcmpUo (rd rs1 rs2 : Reg) (s : State) : Out := fp2 rd rs1 rs2 (fun a b => fpBool (cmpFp .uo (valOf a) (valOf b))) s
/-- FCLASS. -/
def execFclass (rd rs1 : Reg) (s : State) : Out := fp1 true rd rs1 (fun a => (classFp (f32Of a), 0)) s
/-- FNEG. -/
def execFneg (rd rs1 : Reg) (s : State) : Out := fp1 true rd rs1 (fun a => (f32Of a ^^^ 2 ^ 31, 0)) s
/-- FABS. -/
def execFabs (rd rs1 : Reg) (s : State) : Out := fp1 true rd rs1 (fun a => (low (f32Of a) 31, 0)) s

/-! ### Conversions (R220) -/

/-- FCVT_I32_F32: sign-extended to 64 bits. -/
def execFcvtI32F32 (rd rs1 : Reg) (rm : Rm) (s : State) : Out :=
  fp1 true rd rs1 (fun a =>
    let (x, fl) := cvtToInt (s.cur.mode rm) 32 (-(2 ^ 31 : Nat)) (2 ^ 31 - 1 : Nat) (valOf a)
    ((sextWord 32 x).toNat, fl)) s
/-- FCVT_N32_F32: zero-extended. -/
def execFcvtN32F32 (rd rs1 : Reg) (rm : Rm) (s : State) : Out :=
  fp1 true rd rs1 (fun a => cvtToInt (s.cur.mode rm) 32 0 (2 ^ 32 - 1 : Nat) (valOf a)) s
/-- FCVT_I64_F32. -/
def execFcvtI64F32 (rd rs1 : Reg) (rm : Rm) (s : State) : Out :=
  fp1 true rd rs1 (fun a => cvtToInt (s.cur.mode rm) 64 (-(2 ^ 63 : Nat)) (2 ^ 63 - 1 : Nat) (valOf a)) s
/-- FCVT_F32_I32. -/
def execFcvtF32I32 (rd rs1 : Reg) (rm : Rm) (s : State) : Out :=
  fp1 true rd rs1 (fun a => intToF32 (s.cur.mode rm) (toSigned 32 a.toNat)) s
/-- FCVT_F32_N32. -/
def execFcvtF32N32 (rd rs1 : Reg) (rm : Rm) (s : State) : Out :=
  fp1 true rd rs1 (fun a => intToF32 (s.cur.mode rm) (low a.toNat 32 : Nat)) s
/-- FCVT_F32_I64: it reads the whole register. -/
def execFcvtF32I64 (rd rs1 : Reg) (rm : Rm) (s : State) : Out :=
  fp1 false rd rs1 (fun a => intToF32 (s.cur.mode rm) a.toInt) s

end Sys2Proof.Machine
end

