-- ==== Sys2Proof/Machine/Links.lean ====
section
/-! DEFINITION. The module's edge: Terette Link ports (23 R387, R388), and accesses that come from remote modules, root ports and
application cores (02 R55; 05 R131). -/

namespace Sys2Proof.Machine

/-! ### Flits (R387) -/

/-- One millisecond in ck (R2). -/
def msCk : Nat := 2700000

/-- A port that exists and is up. -/
def onPort (k : Nat) (f : Link → State → State) (s : State) : Out :=
  .next (if k < 144 ∧ (s.linkOf k).up then f (s.linkOf k) s else s)

/-- The failures of a flit counted, one more. -/
def bumpFail (fs : List (Nat × Nat)) (seq : Nat) : List (Nat × Nat) :=
  (seq, ((fs.find? fun e => e.1 == seq).map (·.2)).getD 0 + 1) :: fs.filter fun e => e.1 != seq

/-- LINK_FLIT_RECEIVE: the next flit in order is delivered; a flit that fails its CRC is discarded, a replay is asked for from it, and its
error lies on a lane, freely located, which the sixteenth within 1 ms shows to be failing (R387, R388). Any other flit is not accepted. -/
def execLinkFlitReceive (port seq : Nat) (good : Bool) (s : State) : Out :=
  onPort port (fun l s =>
    if good then
      if seq = l.rxNext then
        s.setLink { l with rxNext := (l.rxNext + 1) % 4096, got := l.got ++ [seq], fails := l.fails.filter fun e => e.1 != seq }
      else s
    else
      let lane := l.lane.getD (Config.pick s.nd 15 % 2)
      let errors := (l.errors.filter fun (e : Nat × Nat) => s.time ≤ e.1 + msCk) ++ [(s.time, lane)]
      let many := 16 ≤ (errors.filter fun (e : Nat × Nat) => e.2 == lane).length
      let fails := bumpFail l.fails seq
      s.setLink { l with
        wants := l.wants ++ [seq], fails := fails, errors := errors, stuck := l.stuck || fails.any fun e => 4 ≤ e.2
        failing := if many && l.lane.isNone && l.failing.isNone then some lane else l.failing }) s

/-- A flit has been sent and is not acknowledged. -/
def Link.unacked (l : Link) (seq : Nat) : Bool := (seq + 4096 - l.acked) % 4096 < (l.txNext + 4096 - l.acked) % 4096

/-- LINK_REPLAY: the receiver asks again for a flit, and so has those before it; every unacknowledged flit from that one onward is
sent again, in order. The fourth time says that three replays of the flit have failed (R388). -/
def execLinkReplay (port seq : Nat) (s : State) : Out :=
  onPort port (fun l s =>
    if !l.unacked seq then s
    else
      let n := if l.asked = seq then l.replays + 1 else 1
      s.setLink { l with acked := seq, asked := seq, replays := n, stuck := l.stuck || 4 ≤ n }) s

/-! ### Repeated errors (R388) -/

/-- LANE_REPAIR: once every sent flit is acknowledged, the port moves from its failing lane to the good one, and takes flits again. -/
def execLaneRepair (port lane : Nat) (s : State) : Out :=
  onPort port (fun l s => if l.failing = some lane ∧ !l.stuck then s.flushLink (l.repaired lane) else s) s

/-- RETRAIN: the port resends from its oldest unacknowledged flit, on both lanes, and takes flits again; or the retrain fails. After
three that have failed there is none: the port goes down. -/
def execRetrain (port : Nat) (good : Bool) (s : State) : Out :=
  onPort port (fun l s =>
    if !l.stuck || 3 ≤ l.retrains then s
    else if good then s.flushLink l.retrained
    else s.setLink { l with retrains := l.retrains + 1 }) s

/-- PORT_DOWN: after three failed retrains. -/
def execPortDown (port : Nat) (s : State) : Out :=
  onPort port (fun l s => if l.retrains < 3 then s else s.portDown port) s

/-! ### Accesses from beyond the compute complex (R55, R131) -/

/-- A line-bounded access to DRAM that the module accepts (R80). -/
def State.accepts (s : State) (pa n : Nat) : Bool :=
  !s.rstctl.getLsbD 31 && 1 ≤ n && pa % 128 + n ≤ 128
    && (match region pa with
      | .fast | .cap | .reserve => true
      | _ => false)

/-- An access from outside meets the map of R14: an address in none of its regions stops the machine. -/
def reachOut (pa : Nat) (o : Out) : Out := if region pa = .hole then .fault (.noSuchAddress pa) else o

/-- The entries of the frame owner table, one byte each, and the address of its first in the system reserve (R37, log 93). -/
def tableSize : Nat := 12582912 + 33553408
def tableBase : Nat := 0x3FFFC000000 + Config.tableAt % (2 ^ 26 - tableSize + 1)

/-- The entry of the frame owner table that lies at an address. -/
def tableIndex (pa : Nat) : Option Nat := if tableBase ≤ pa ∧ pa < tableBase + tableSize then some (pa - tableBase) else none

/-- The byte at an address: an entry of the frame owner table where it lies there (R37). -/
def State.outerByte (s : State) (d : LineVal) (pa : Nat) : Byte :=
  match tableIndex pa with
  | some k => ((s.fot.find? fun e => e.1 == k).map (·.2)).getD 0
  | none => BitVec.ofNat 8 (lineGet d (pa % 128) 1)

/-- The bytes of an access from outside that reach memory: the frame owner table is written through the device registers alone
(R37). -/
def outerMask (pa n : Nat) : ByteMask :=
  (List.range n).foldl (fun (m : ByteMask) k =>
    if (tableIndex (pa + k)).isSome then m else m ||| byteSpan ((pa + k) % 128) 1) 0

/-- Bytes read through the home of their line (R55), answered to the requester with the line's poison (R75). -/
def State.outerRead (s : State) (pa n : Nat) : State :=
  let ((d, p), s) := s.homeRead sysAgent (pa / 128) (s.heldKey (pa / 128)) false
  { s with outbox := s.outbox ++ [{ pa := pa, n := n, val := ofBytes ((List.range n).map fun k => s.outerByte d (pa + k)),
                                    poison := p }] }

/-- A write that enters as origin 4 (R131). -/
def State.outerWrite (s : State) (pa n : Nat) (val : LineVal) : State :=
  s.send sysAgent (pa / 128) (s.heldKey (pa / 128)) false (linePut 0 (pa % 128) n val.toNat) (outerMask pa n) false

/-- A write applied at its home at once, ordered by no vector clock (R131). -/
def State.freeWrite (s : State) (pa n : Nat) (val : LineVal) (bad : Bool := false) : State :=
  s.homeApply (pa / 128) (s.heldKey (pa / 128)) false (linePut 0 (pa % 128) n val.toNat) (outerMask pa n) bad

/-- REMOTE_ACCESS: performed at its home in this module (R131), with the poison that a Terette Link copy brings (R75). -/
def execRemoteAccess (wr : Bool) (pa n : Nat) (d : LinkData) (s : State) : Out :=
  reachOut pa (.next (if !s.accepts pa n then s else if wr then s.freeWrite pa n d.val d.bad else s.outerRead pa n))

/-- ROOT_PORT_WRITE: a posted write of origin 4; one with relaxed ordering may be applied before earlier ones, freely (R131). -/
def execRootPortWrite (pa n : Nat) (val : LineVal) (relaxed : Bool) (s : State) : Out :=
  reachOut pa (.next (if !s.accepts pa n then s
    else if relaxed && Config.choice s.nd 16 then s.freeWrite pa n val else s.outerWrite pa n val))

/-- ROOT_PORT_READ. -/
def execRootPortRead (pa n : Nat) (s : State) : Out :=
  reachOut pa (.next (if s.accepts pa n then s.outerRead pa n else s))

/-- APPLICATION_CORE_ACCESS: DRAM through the home, or a device register (R131, R382). -/
def execApplicationCoreAccess (wr : Bool) (pa n : Nat) (val : LineVal) (s : State) : Out :=
  if region pa = .device then
    let off := pa - 0x40000000000
    if wr then execRegisterWrite off { n := n, val := val } s
    else .next { s with outbox := s.outbox ++ [{ pa := pa, n := n, val := low (s.registerRead off) (8 * n) }] }
  else reachOut pa (.next (if !s.accepts pa n then s else if wr then s.outerWrite pa n val else s.outerRead pa n))

end Sys2Proof.Machine
end

