-- ==== Sys2Proof/Machine/Manage.lean ====
section
/-! DEFINITION. The power manager (19 R345; 23 R393, R394) and the management controller (23 R392). -/

namespace Sys2Proof.Machine

/-! ### Power (R393, R394) -/

/-- The temperature in degrees of a compute die's hottest sensor, from four packed bytes. -/
def dieTemp (hottest d : Nat) : Nat := hottest / 256 ^ d % 256

/-- The dies held at k = 1: from 105 degrees until every sensor reads below 100. -/
def heldDies (was : List Nat) (hottest : Nat) : List Nat :=
  (List.range 4).filter fun d => 105 ≤ dieTemp hottest d || (was.contains d && 100 ≤ dieTemp hottest d)

/-- The next issue limit of a cluster. -/
def nextLimit (forecast : Nat) (lower held : Bool) (k : Nat) : Nat :=
  if held then 1
  else if 4000 < forecast ∧ lower then max 1 (k - 1)
  else if forecast < 3800 then min 8 (k + 1)
  else k

/-- POWER_MANAGER_INTERVAL: `forecast` in watts, the four dies' hottest sensors, and the clusters that draw the most power. Each
change of a limit posts event 7.3 to the contexts resident on the cluster (R359). The average over the
last millisecond is a free value up to the 4,000 W at which it is held (R6). -/
def execPowerManagerInterval (forecast hottest : Nat) (clusters : List Nat) (s : State) : Out :=
  let hot := heldDies s.hot hottest
  let limits : Vector (BitVec 4) 128 := Vector.ofFn fun o =>
    BitVec.ofNat 4 (nextLimit forecast (clusters.contains o.val) (hot.contains (o.val / 32)) (s.limits.getD o.val 8).toNat)
  let changed (o : Nat) : Bool := s.limits.getD o 8 != limits.getD o 8
  let note (c : Ctx) : Ctx := if c.status == .running && changed c.cluster then c.pendEvent 3 else c
  let low := limits.toList.foldl (fun (m : Nat) k => min m k.toNat) 8
  let avg := Config.pick s.nd 16 % 4001
  .next { s with
    hot := hot, limits := limits, cur := note s.cur, others := s.others.map note
    pwrstat := BitVec.ofNat 64 (avg * 2 ^ 32 + (if hot.isEmpty then 0 else 256) + low) }

/-! ### The management controller (R392) -/

/-- SENSOR_SAMPLE: 36 temperature sensors, and the voltage and current of every rail, as many as there are; free values. -/
def execSensorSample (s : State) : Out :=
  .next { s with sensors := (List.range (36 + 2 * Config.pick s.nd 18)).map fun k => Config.pick s.nd (100 + k) }

/-- SPDM_REQUEST: the measurements of the ROM, the firmware image and its configuration, signed with the identity key. -/
def execSpdmRequest (nonce : Nat) (s : State) : Out :=
  let m := [nonce, Config.measure 0 0, Config.measure 1 s.fw.running, Config.measure 2 s.fw.running]
  .next { s with replies := s.replies ++ [m ++ [Config.sign m]] }

end Sys2Proof.Machine
end

