-- ==== Sys2Proof/Machine/Matrix.lean ====
section
/-! DEFINITION. The matrix instructions at issue (15 R284-R298): their checks, the entries that they put into the queue, and
`mld` and `mst`, which act when their turn has come. -/

namespace Sys2Proof.Machine

/-! ### Issue (R285, R286) -/

/-- Operand misuse of the matrix path, 0x15A (R286). -/
def State.matrixMisuse (s : State) : Out := s.faultOpen 5 3 2

/-- A request of the context in focus at the matrix queue. -/
def State.myAsk (s : State) (a : Ask) : Bool := a.res == 1 && a.slot == s.cur.slot

/-- An entry of the cluster's matrix queue is there for the context in focus (R285, R344): one that was granted to it, or a free one
that no other context waits for. -/
def State.entryFree (s : State) : Bool :=
  (s.asks.any fun a => s.myAsk a && a.granted)
    || (s.entriesUsed s.cur.cluster < queueMax && (s.asking s.cur.cluster).all (· == s.cur.slot))

/-- The context in focus takes its entry, and pays for it where it has not yet (R344). -/
def State.takeEntry (s : State) : State :=
  let t := if s.asks.any fun a => s.myAsk a && a.granted then s else s.mapCur fun c => c.pay 1
  { t with asks := s.asks.filter fun a => !s.myAsk a }

/-- An instruction is accepted by the matrix queue, or it holds issue and its request waits (R285). -/
def State.withEntry (s : State) (k : State → Out) : Out :=
  if s.entryFree then k s.takeEntry
  else { s with asks := if s.asks.any s.myAsk then s.asks else s.asks ++ [{ res := 1, slot := s.cur.slot }] : State }.hold

/-- N exceeds the columns of the grant (R286). -/
def Ctx.tooWide (c : Ctx) : Bool := 4 * c.lanes < tshN (c.cr 9)

/-- An entry of the queue with what the context holds at issue. -/
def Ctx.entry (c : Ctx) (i : Instr) (ops : List Word) (vecs : List (BitVec 16384)) (mask : BitVec 8192) : MEntry :=
  { body := i, ops := ops, vecs := vecs, mask := mask, vl := c.vl, lanes := c.lanes, tsh := c.cr 9, mode := c.fpm
    last := c.lastUse.filterMap fun r => match r with
      | .t k => some k
      | _ => none }

/-- The queue accepts an entry, and the instruction completes (R285). -/
def State.enqueue (s : State) (e : MEntry) : Out :=
  (s.mapCur fun c =>
    let c := { c with mq := c.mq ++ [e] }.rewrote fun g => g == 8 + c.mq.length / 2
    match tileDst e.body with
    | some k => c.tileWritten k
    | none => c).retire

/-! ### Shape and zeroing (R287) -/

/-- MSHAPE. -/
def execMshape (f : TR) (s : State) : Out :=
  if s.badS false [f.rs1] then s.poisonS
  else
    let d := s.opS 0 f.rs1
    if bits d 32 32 != 0 || d.getLsbD 6 || d.getLsbD 7 || 127 < bits d 8 8 then s.matrixMisuse
    else
      let t := bits d 0 32 + (Ty.code f.ty).toNat * 2 ^ 32 + (Ty.code f.ty2).toNat * 2 ^ 40
      s.withEntry fun s => (s.mapCur fun c => c.writeReg (.c 9) t).retire

/-- MZERO. -/
def execMzero (f : TR) (s : State) : Out :=
  s.withEntry fun s => s.enqueue (s.cur.entry (.mzero f) [] [] 0)

/-! ### The proofed multiply (R288, R289) -/

/-- The region checks of R288 for the context in focus, and nb. -/
def State.regionOk (s : State) (sw : Word) : Bool :=
  let c := s.cur
  let t := c.cr 9
  let first := bits sw 0 7
  let o := (s.tile c.cluster first).owner
  match s.regionAt c.cluster first with
  | none => false
  | some r => tileKind o == 3 && tileNode o == c.slot && r.fw == bits t 32 5 && r.cols == tshN t && r.blocks == tshK t
      && bits sw 16 16 + bits sw 32 17 ≤ tshK t

/-- Bits of the operand of `mpm` that are not reserved (R288). -/
def mpmWordOk (sw : Word) : Bool :=
  bits sw 49 15 == 0 && bits sw 7 9 == 0 && 1 ≤ bits sw 32 17 && bits sw 32 17 ≤ 65536

/-- MPM (R288): FET consumes the oldest fetch (R290). -/
def execMpm (blk fet : Bool) (f : TR) (s : State) : Out :=
  if s.badS false [f.rs2] then s.poisonS
  else
    let c := s.cur
    let t := c.cr 9
    let sw := s.opS 1 f.rs2
    let nb := bits sw 32 17
    let fa := tshA t
    let fw := tshW t
    let g := groupCount (tshM t) nb fa.bits c.lanes
    let fits : Bool := match fet, c.fetches with
      | false, _ => g ≤ 8 && f.rs1.toNat + g ≤ 64
      | true, [] => false
      | true, h :: _ => h.rows == tshM t && h.nb == nb
    if c.tooWide || !mpmWordOk sw || !s.regionOk sw || (blk && nb != 1)
        || (blk && fw.isInt && !(fw == .i8 && fa == .i8)) || !fits then s.matrixMisuse
    else if !fet && (List.range (tshM t * 32 * nb)).any (fun i => c.badPlaces [c.place f.rs1 fa.bits i]) then s.poisonV
    else
      let vecs := if fet then [] else (List.range 8).map fun k => s.opVAt 0 f.rs1 k
      let e := { c.entry (.mpm blk fet f) [sw] vecs 0 with fetch := if fet then c.fetches.head? else none }
      s.withEntry fun s => (if fet then s.mapCur fun c => { c with fetches := c.fetches.drop 1 } else s).enqueue e

/-! ### Fetching rows (R290) -/

/-- The lines of a fetch checked in order, the windows included (R20, R27): pinned, or class, kind and ctl.tval of the first that fails (R286, R290). DESIGN CHOICE:
ctl.tval is the first byte of the lowest row that meets the failing line, in that line (R31, log 91). -/
def State.pinLines (s : State) : List (Nat × Nat) → Except Failed (List Pinned × State)
  | [] => .ok ([], s)
  | (n, a) :: r =>
    if windowed a then .error (1, 7, a)
    else match s.locateAll false .read [(a, 1)] with
    | .error (_, .fault c k e) => .error (Failed.at_ a c k e)
    | .error (_, .wait) => .error (1, 3, a)
    | .ok ps => match ps with
      | [(_, _, .page l pa)] =>
        if region pa != .fast || l.ca == 2 then .error (2, 3, a)
        else match s.pinLines r with
          | .error e => .error e
          | .ok (ps, s) =>
            let s := s.useLeaf s.cur.cluster s.cur.part s.cur.asid a .read l
            .ok ({ va := n, line := pa / 128, key := l.key, ca := l.ca, zero := l.d } :: ps, s)
      | _ => .error (1, 7, a)

/-- What the pages of one long row from `va` to `e` meet, in order, `fuel` pages at most: `some a` where the first to fail is a window
address, at `a`, `none` within where it is any other. -/
def State.rowWindow (s : State) : Nat → Nat → Nat → Option (Option Nat)
  | 0, _, _ => none
  | fuel + 1, va, e =>
    if e ≤ va then none
    else match s.pinLines [(va / 128, va)] with
      | .error (1, 7, a) => some (some a)
      | .error _ => some none
      | .ok _ => s.rowWindow fuel (65536 * (va / 65536 + 1)) e

/-- The window address that rows too long to be pinned meet before any other fault (R27, R31). -/
def State.fetchWindow (s : State) (base stride : Word) (rows rowBytes : Nat) : Option Nat :=
  ((List.range rows).findSome? fun m =>
    let a := (base + BitVec.ofNat 64 m * stride).toNat
    s.rowWindow (rowBytes / 65536 + 2) a (a + rowBytes)).join

/-- What a fetch of `nb` blocks and rows of `bytes` bytes meets at issue (R286, R290): its pinned lines, the fault of the lowest row
that has one, or `none` for a misuse. A window address that no earlier row's fault comes before is answered before a misuse (R27),
any other fault after it. -/
def State.fetchCheck (s : State) (a st : Word) (rows nb bytes : Nat) : Option (Except Failed (List Pinned × State)) :=
  match fetchLineVas a st rows bytes with
  | none => (s.fetchWindow a st rows bytes).map fun e => .error (1, 7, e)
  | some vas => match s.pinLines vas with
    | .error (1, 7, e) => some (.error (1, 7, e))
    | r =>
      if nb = 0 ∨ 65536 < nb ∨ 256 < vas.length + (s.cur.fetches.map fun g => g.lines.length).sum then none else some r

/-- MFETCH (R290): its entry of the queue and the fetch that it queues. -/
def execMfetch (f : TR) (s : State) : Out :=
  if s.badS false [f.rs1, f.rs2, f.rs3] then s.poisonS
  else
    let c := s.cur
    let t := c.cr 9
    let a := s.opS 0 f.rs1
    let st := s.opS 1 f.rs2
    let nb := (s.opS 2 f.rs3).toNat
    let w := (tshA t).bits
    let bytes := 32 * nb * w / 8
    match s.fetchCheck a st (tshM t) nb bytes with
    | none => s.matrixMisuse
    | some (.error (cl, k, e)) => s.fault cl 3 k (BitVec.ofNat 64 e)
    | some (.ok (ps, t')) =>
      if !s.entryFree then s.withEntry fun s => s.hold
      else
        let t' := (t'.countDiscarded c.part (ps.filter fun p => p.zero).length).takeEntry
        let g : Fetch := { rows := tshM t, nb := nb, base := a, stride := st, width := w, lines := ps, id := t'.serial }
        ({ t' with serial := t'.serial + 1 }.mapCur fun c => { c with fetches := c.fetches ++ [g] }).enqueue
          { c.entry (.mfetch f) [a, st, s.opS 2 f.rs3] [] 0 with fid := some g.id }

/-! ### Outer products and scales (R292, R293) -/

/-- MOPA. -/
def execMopa (f : TR) (s : State) : Out :=
  let c := s.cur
  let t := c.cr 9
  let w := f.ty.bits
  let n := min c.vl (tshN t)
  let mask := s.opM 2 f.vm.toNat
  let on := activeElems 0 n mask
  let rows := List.range (min (tshM t) (c.cap w))
  if c.tooWide then s.matrixMisuse
  else if c.badMask f.vm.toNat 0 n || on.any (fun i => c.badPlaces [c.place f.rs2 w i])
      || (!on.isEmpty && rows.any fun m => c.badPlaces [c.place f.rs1 w m]) then s.poisonV
  else
    let e := c.entry (.mopa f) [] [s.opV 0 f.rs1, s.opV 1 f.rs2] mask
    s.withEntry fun s => s.enqueue e

/-- MSCACC. -/
def execMscacc (f : TR) (s : State) : Out :=
  let c := s.cur
  let t := c.cr 9
  if c.tooWide then s.matrixMisuse
  else if (List.range (tshM t)).any (fun m => c.badPlaces [c.place f.rs2 8 m])
      || (List.range (tshN t)).any (fun n => c.badPlaces [c.place f.rs3 8 n]) then s.poisonV
  else
    let e := c.entry (.mscacc f) [] [s.opV 0 f.rs2, s.opV 1 f.rs3] 0
    s.withEntry fun s => s.enqueue e

/-! ### Extracting and inserting (R294, R295) -/

/-- The operand of `mext` or `mins` that names the first row breaks R294. -/
def rowMisuse (t : Word) (x : Word) : Bool := bits x 6 58 != 0 || tshM t ≤ bits x 0 6

/-- The queue has run and nothing of it is kept behind a stop (R291): the state to act in, or the held word. -/
def State.afterQueue (s : State) (k : State → Out) : Out :=
  let s := s.matrixAll s.cur.slot queueMax
  if s.cur.mq.isEmpty then k s else s.hold

/-- A result of `mext` or `mext.flags`: at once where the word waits for it (SA = 0), or by an entry of the queue. -/
def mextIssue (e : MEntry) (dst : RegVal) (now : State → Nat × Flags × Bool) (s : State) : Out :=
  if s.cur.ctl.sa = 0 then
    s.afterQueue fun s => s.withEntry fun s =>
      match now s with
      | (x, fl, p) =>
        if p then s.produceLate [dst] { code := 0x0DC, tval := s.openTval } e.ops
        else (s.produceVar [{ dst with val := x }] fl none e.ops).retire
  else s.withEntry fun s => (s.produceVar [dst] 0 none e.ops).enqueue { e with tag := s.cur.ctl.sa.toNat }

/-- MEXT with SUB = 0. -/
def execMext (f : TR) (s : State) : Out :=
  if s.badS false [f.rs2] then s.poisonS
  else
    let c := s.cur
    let t := c.cr 9
    let x := s.opS 0 f.rs2
    let w := f.ty.bits
    let mask := s.opM 2 f.vm.toNat
    if c.tooWide || rowMisuse t x then s.matrixMisuse
    else
      let e := { c.entry (.mext f) [x] [] mask with mode := c.mode f.rm }
      let n := tileCount e w (bits x 0 6)
      if c.badMask f.vm.toNat 0 n then s.poisonV
      else
        let v := c.vslot f.rd.toNat
        let old := c.v.getD v 0
        let is := (List.range (c.cap w)).filter fun i => n ≠ 0 && (if i < n then f.mp || mask.getLsbD i else !f.tp)
        let dst : RegVal := { reg := .v v, val := old.toNat, marks := c.marksAfter v w is, hit := hitGranules c.lanes w is }
        mextIssue e dst (fun s =>
          let ((y, fl), p) := mextVec e f (s.opT 0 f.rs1.toNat) old
          (y.toNat, fl, p)) s

/-- MEXT with SUB = 1. -/
def execMextFlags (f : TR) (s : State) : Out :=
  let c := s.cur
  if c.tooWide then s.matrixMisuse
  else
    mextIssue (c.entry (.mextFlags f) [] [] 0) { reg := .m f.rd.toNat, val := (c.m.getD f.rd.toNat 0).toNat }
      (fun s => ((s.opT 0 f.rs1.toNat).flags.toNat, 0, false)) s

/-- MINS. -/
def execMins (f : TR) (s : State) : Out :=
  if s.badS false [f.rs2] then s.poisonS
  else
    let c := s.cur
    let t := c.cr 9
    let x := s.opS 1 f.rs2
    let w := f.ty2.bits
    let mask := s.opM 2 f.vm.toNat
    if c.tooWide || rowMisuse t x then s.matrixMisuse
    else
      let e := c.entry (.mins f) [x] [s.opV 0 f.rs1] mask
      let n := tileCount e w (bits x 0 6)
      if c.badMask f.vm.toNat 0 n || (activeElems 0 n mask).any (fun i => c.badPlaces [c.place f.rs1 w i]) then s.poisonV
      else s.withEntry fun s => s.enqueue e

/-! ### Tile loads and stores (R296) -/

/-- The places of the elements of a tile access, row by row. -/
def tilePlaces (t : Word) (a st : Word) : List (Nat × Nat × Nat) :=
  (List.range (tshM t)).flatMap fun m => (List.range (tshN t)).map fun n =>
    (m * tshN t + n, (a + BitVec.ofNat 64 m * st + BitVec.ofNat 64 (4 * n)).toNat, 0)

/-- The elements of `mld` read into a tile: poison is carried (R296). -/
def State.mldElems (s : State) (l n : Nat) : List VElem → TReg → TReg × State
  | [], t => (t, s)
  | e :: r, t =>
    let ((x, bad), s) := s.readPieces s.cur.cluster s.cur.hart true e.ps
    s.mldElems l n r (t.set l (e.i / n) (e.i % n) x bad.isSome)

/-- MLD. -/
def execMld (f : TR) (s : State) : Out :=
  if s.badS false [f.rs1, f.rs2] then s.poisonS
  else
    let c := s.cur
    let t := c.cr 9
    if c.tooWide then s.matrixMisuse
    else match s.probe true .read .w (tilePlaces t (s.opS 0 f.rs1) (s.opS 1 f.rs2)) with
      | (es, some (_, x)) => s.vstopAt 3 es x
      | (es, none) => s.afterQueue fun s => s.withEntry fun s =>
          let s := s.useAll .read (allPieces es)
          let (u, s) := s.mldElems c.lanes (tshN t) es (s.cur.t.getD f.rd.toNat {})
          let u := { u with flags := setBits u.flags 0 (tshM t) 0 }
          let s := s.countDiscarded c.part (discardedLines (allPieces es))
          (s.mapCur fun c => c.setTile f.rd.toNat u).retire

/-- MST. -/
def execMst (f : TR) (s : State) : Out :=
  if s.badS false [f.rs1, f.rs2] then s.poisonS
  else
    let c := s.cur
    let t := c.cr 9
    if c.tooWide then s.matrixMisuse
    else match s.probe true .write .w (tilePlaces t (s.opS 0 f.rs1) (s.opS 1 f.rs2)) with
      | (es, some (_, x)) => s.vstopAt 3 es x
      | (es, none) => s.afterQueue fun s => s.withEntry fun s =>
          let s := s.useAll .write (allPieces es)
          let u := s.opT 0 f.rd.toNat
          let n := tshN t
          let ws := es.foldl (fun (ws : List LineWrite) (e : VElem) =>
            addPieces (u.bad c.lanes (e.i / n) (e.i % n)) (u.get c.lanes (e.i / n) (e.i % n)) e.ps ws) []
          (s.writeLines c.cluster c.hart ws).retire

/-! ### What the matrix path does on its own (R285, R288, R291) -/

/-- MATRIX_ENTRY_COMPLETE: the oldest entry of a context's queue finishes. -/
def execMatrixEntryComplete (slot : Nat) (s : State) : Out := .next (s.matrixOne slot)

/-- TILE_FETCH_LINE_READ: the next line of a context's oldest fetch that is not read whole, when it is that context's turn (R291,
R344). -/
def execTileFetchLineRead (slot : Nat) (s : State) : Out :=
  match s.ctxOf slot with
  | none => .next s
  | some c => if s.winner 4 (s.fetching c.cluster) = some slot then .next (s.fetchTurn c.cluster) else .next s

end Sys2Proof.Machine
end

