-- ==== Sys2Proof/Machine/VInt.lean ====
section
/-! DEFINITION. Vector integer instructions (11 R241, R242). -/

namespace Sys2Proof.Machine

/-! ### Operations on patterns (R241) -/

/-- a + b modulo 2^w. -/
def addElem (w a b : Nat) : Nat := low (a + b) w
/-- a - b modulo 2^w. -/
def subElem (w a b : Nat) : Nat := low (a + (2 ^ w - low b w)) w
/-- The low w bits of the product. -/
def mulElem (w a b : Nat) : Nat := low (a * b) w
/-- The high w bits of the 2w-bit product, with the type's signedness. -/
def mulhElem (t : Ty) (a b : Nat) : Nat := ofSigned t.bits (intVal t a * intVal t b / (2 ^ t.bits : Nat))
/-- The smaller value. -/
def minElem (t : Ty) (a b : Nat) : Nat := if intVal t b < intVal t a then b else a
/-- The larger value. -/
def maxElem (t : Ty) (a b : Nat) : Nat := if intVal t a < intVal t b then b else a
/-- Shift left by the low log2(w) bits of b. -/
def shlElem (w a b : Nat) : Nat := low (a * 2 ^ (b % w)) w
/-- Logical shift right. -/
def shrElem (w a b : Nat) : Nat := low a w / 2 ^ (b % w)
/-- Arithmetic shift right. -/
def sarElem (w a b : Nat) : Nat := ofSigned w (toSigned w a / (2 ^ (b % w) : Nat))
/-- The integer comparisons of `vcmp` (R185). -/
def cmpElem (cc : Cc) (t : Ty) (a b : Nat) : Bool :=
  let x := intVal t a
  let y := intVal t b
  match cc with
  | .eq => x == y
  | .ne => x != y
  | .lt => x < y
  | .le => x ≤ y
  | .gt => y < x
  | .ge => y ≤ x
  | .uo => false

/-! ### Shapes -/

/-- An operation of R241 with a vector destination. -/
def vint (f : TR) (op : Nat → Nat → Nat) (s : State) : Out :=
  let w := f.ty.bits
  let c := s.cur
  let a := s.opV 0 f.rs1
  let b := s.second f w
  vecElem f (w ≤ 32) (secondScalars f)
    { n := c.count w, w := w, unit := 1, uses := fun i => c.place f.rs1 w i :: c.secondPlaces f w i
      op := fun i => some (op (elemGet c.lanes w a i) (b i), 0) } id s

/-- A widening operation of R242: N at the narrow width, exact results in a group of two. -/
def vwiden (f : TR) (op : Int → Int → Int) (s : State) : Out :=
  let w := f.ty.bits
  let c := s.cur
  let a := s.opV 0 f.rs1
  let b := s.second f w
  vecElem f (w ≤ 32) (secondScalars f)
    { n := c.count w, w := 2 * w, g := 2, unit := 1, uses := fun i => c.place f.rs1 w i :: c.secondPlaces f w i
      op := fun i => some (ofSigned (2 * w) (op (intVal f.ty (elemGet c.lanes w a i)) (intVal f.ty (b i))), 0) } id s

/-! ### Meanings -/

/-- VADD. -/
def execVadd (f : TR) (s : State) : Out := vint f (addElem f.ty.bits) s
/-- VSUB. -/
def execVsub (f : TR) (s : State) : Out := vint f (subElem f.ty.bits) s
/-- VMUL. -/
def execVmul (f : TR) (s : State) : Out := vint f (mulElem f.ty.bits) s
/-- VMULH. -/
def execVmulh (f : TR) (s : State) : Out := vint f (mulhElem f.ty) s
/-- VMIN. -/
def execVmin (f : TR) (s : State) : Out := vint f (minElem f.ty) s
/-- VMAX. -/
def execVmax (f : TR) (s : State) : Out := vint f (maxElem f.ty) s
/-- VAND. -/
def execVand (f : TR) (s : State) : Out := vint f (· &&& ·) s
/-- VOR. -/
def execVor (f : TR) (s : State) : Out := vint f (· ||| ·) s
/-- VXOR. -/
def execVxor (f : TR) (s : State) : Out := vint f (· ^^^ ·) s
/-- VSHL. -/
def execVshl (f : TR) (s : State) : Out := vint f (shlElem f.ty.bits) s
/-- VSHR. -/
def execVshr (f : TR) (s : State) : Out := vint f (shrElem f.ty.bits) s
/-- VSAR. -/
def execVsar (f : TR) (s : State) : Out := vint f (sarElem f.ty.bits) s

/-- VCMP: the destination is a mask register. -/
def execVcmp (cc : Cc) (f : TR) (s : State) : Out :=
  let w := f.ty.bits
  let c := s.cur
  let a := s.opV 0 f.rs1
  let b := s.second f w
  vecToMask f (c.count w) (w ≤ 32) (fun i => c.place f.rs1 w i :: c.secondPlaces f w i)
    (fun i => cmpElem cc f.ty (elemGet c.lanes w a i) (b i)) s

/-- VSEL: VM names the selector, and every element below N is written. -/
def execVsel (f : TR) (s : State) : Out :=
  let w := f.ty.bits
  let c := s.cur
  let a := s.opV 0 f.rs1
  let b := s.opV 1 f.rs2
  let k := s.opM 0 f.vm.toNat
  if c.count w != 0 && c.badMask f.vm.toNat c.estart (c.count w) then s.poisonV
  else
    vecElem { f with vm := 0 } true []
      { n := c.count w, w := w, unit := 1
        uses := fun i => [if k.getLsbD i then c.place f.rs1 w i else c.place f.rs2 w i]
        op := fun i => some (if k.getLsbD i then elemGet c.lanes w a i else elemGet c.lanes w b i, 0) } id s

/-- VWADD. -/
def execVwadd (f : TR) (s : State) : Out := vwiden f (· + ·) s
/-- VWMUL. -/
def execVwmul (f : TR) (s : State) : Out := vwiden f (· * ·) s

/-- VNARROW: saturation raises OF. -/
def execVnarrow (f : TR) (s : State) : Out :=
  let w := f.ty.bits
  let c := s.cur
  let xs := s.opGroup 0 f.rs1 2
  vecElem f true []
    { n := c.count w, w := w, unit := 1, uses := fun i => [c.place f.rs1 (2 * w) i]
      op := fun i =>
        let z := intVal f.ty2 (groupGet c.lanes (2 * w) xs i)
        let y := clampInt (tyLo f.ty) (tyHi f.ty) z
        some (ofSigned w y, if y = z then 0 else fOF) } id s

/-- VDOT4: four products into each 32-bit element. -/
def execVdot4 (f : TR) (s : State) : Out :=
  let w := f.ty.bits
  let c := s.cur
  let d := s.opV 2 f.rd
  let a := s.opV 0 f.rs1
  let b := s.opV 1 f.rs2
  let dot (i : Nat) : Int := ((List.range 4).map fun k =>
    intVal f.ty (elemGet c.lanes w a (4 * i + k)) * intVal f.ty (elemGet c.lanes w b (4 * i + k))).sum
  vecElem f true []
    { n := c.count 32, w := 32
      uses := fun i => c.place f.rd 32 i :: (List.range 4).flatMap fun k =>
        [c.place f.rs1 w (4 * i + k), c.place f.rs2 w (4 * i + k)]
      op := fun i => some (ofSigned 32 ((elemGet c.lanes 32 d i : Nat) + dot i), 0) } id s

end Sys2Proof.Machine
end

