-- ==== Sys2Proof/Machine/Pair.lean ====
section
/-! DEFINITION. The slot forms of a pair (08 R187, R188, 10 R216), but for the slot loads and stores. -/

namespace Sys2Proof.Machine

/-- Slot opcode 0x00: the scalar operations of R182 that a slot may name. -/
def execPairScalarRR (fn rd rs rs2 : Reg) (s : State) : Out :=
  match fn.toNat with
  | 0 => scalar2 rd rs rs2 (· + ·) s
  | 1 => scalar2 rd rs rs2 (· - ·) s
  | 2 => scalar2 rd rs rs2 (· * ·) s
  | 3 => scalar2 rd rs rs2 mulHigh s
  | 4 => scalar2 rd rs rs2 mulHighU s
  | 9 => scalar2 rd rs rs2 (· &&& ·) s
  | 10 => scalar2 rd rs rs2 (· ||| ·) s
  | 11 => scalar2 rd rs rs2 (· ^^^ ·) s
  | 12 => scalar2 rd rs rs2 shlWord s
  | 13 => scalar2 rd rs rs2 shrWord s
  | 14 => scalar2 rd rs rs2 sarWord s
  | 15 => scalar2 rd rs rs2 (fun a b => boolWord (a.slt b)) s
  | 16 => scalar2 rd rs rs2 (fun a b => boolWord (a.ult b)) s
  | 17 => scalar2 rd rs rs2 minS s
  | 18 => scalar2 rd rs rs2 maxS s
  | 19 => scalar2 rd rs rs2 minU s
  | 20 => scalar2 rd rs rs2 maxU s
  | 21 => scalar1 rd rs clzWord s
  | 22 => scalar1 rd rs ctzWord s
  | 23 => scalar1 rd rs popcWord s
  | 24 => scalar1 rd rs id s
  | _ => s.faultOpen 0 0 0

/-- Slot ADDI. -/
def execPairAddi (rd rs : Reg) (imm : BitVec 12) (s : State) : Out := scalar1 rd rs (· + imm.signExtend 64) s
/-- Slot ANDI. -/
def execPairAndi (rd rs : Reg) (imm : BitVec 12) (s : State) : Out := scalar1 rd rs (· &&& imm.signExtend 64) s
/-- Slot ORI. -/
def execPairOri (rd rs : Reg) (imm : BitVec 12) (s : State) : Out := scalar1 rd rs (· ||| imm.signExtend 64) s
/-- Slot XORI. -/
def execPairXori (rd rs : Reg) (imm : BitVec 12) (s : State) : Out := scalar1 rd rs (· ^^^ imm.signExtend 64) s
/-- Slot SHLI. -/
def execPairShli (rd rs : Reg) (n : BitVec 6) (s : State) : Out := scalar1 rd rs (· <<< n.toNat) s
/-- Slot SHRI. -/
def execPairShri (rd rs : Reg) (n : BitVec 6) (s : State) : Out := scalar1 rd rs (· >>> n.toNat) s
/-- Slot SARI. -/
def execPairSari (rd rs : Reg) (n : BitVec 6) (s : State) : Out := scalar1 rd rs (·.sshiftRight n.toNat) s
/-- Slot SLTI. -/
def execPairSlti (rd rs : Reg) (imm : BitVec 12) (s : State) : Out :=
  scalar1 rd rs (fun a => boolWord (a.slt (imm.signExtend 64))) s
/-- Slot LI. -/
def execPairLi (rd : Reg) (imm : BitVec 12) (s : State) : Out := scalar1 rd 0 (fun _ => imm.signExtend 64) s

/-- Slot opcode 0x20: scalar FP32 in the mode of ctl.fpm. -/
def execPairFpRR (fn rd rs rs2 : Reg) (s : State) : Out :=
  let m := s.cur.fpm
  match fn.toNat with
  | 0 => fp2 rd rs rs2 (fun a b => addFp fmtF32 m (valOf a) (valOf b)) s
  | 1 => fp2 rd rs rs2 (fun a b => addFp fmtF32 m (valOf a) (valOf b).neg) s
  | 2 => fp2 rd rs rs2 (fun a b => mulFp fmtF32 m (valOf a) (valOf b)) s
  | 6 => fp2 rd rs rs2 (fun a b => (minMaxFp fmtF32 false (f32Of a) (f32Of b), 0)) s
  | 7 => fp2 rd rs rs2 (fun a b => (minMaxFp fmtF32 true (f32Of a) (f32Of b), 0)) s
  | 13 => fp1 true rd rs (fun a => (f32Of a ^^^ 2 ^ 31, 0)) s
  | 14 => fp1 true rd rs (fun a => (low (f32Of a) 31, 0)) s
  | _ => s.faultOpen 0 0 0

/-- The signed integer type of a SEW code (R188, R230). -/
def sewTy (code : Nat) : Ty :=
  match code with
  | 0 => .i2 | 1 => .i4 | 2 => .i8 | 3 => .i16 | 4 => .i32 | _ => .i64

/-- The fields of a vector slot (R188): signed elements of vcfg's width, under m0, with vcfg's policies. -/
def Ctx.slotFields (c : Ctx) (rd rs rs2 : Reg) : TR :=
  { rd := rd, rs1 := rs, rs2 := rs2, mp := (c.cr 3).getLsbD 8, tp := (c.cr 3).getLsbD 9, ty := sewTy (bits (c.cr 3) 0 3) }

/-- Slot opcode 0x30: the vector operations of R185 that a slot may name. -/
def execPairVectorRR (fn rd rs rs2 : Reg) (s : State) : Out :=
  let f := s.cur.slotFields rd rs rs2
  let w := f.ty.bits
  match fn.toNat with
  | 0 => vint f (addElem w) s
  | 1 => vint f (subElem w) s
  | 2 => vint f (mulElem w) s
  | 3 => vint f (mulhElem f.ty) s
  | 4 => vint f (minElem f.ty) s
  | 5 => vint f (maxElem f.ty) s
  | 6 => vint f (· &&& ·) s
  | 7 => vint f (· ||| ·) s
  | 8 => vint f (· ^^^ ·) s
  | 9 => vint f (shlElem w) s
  | 10 => vint f (shrElem w) s
  | 11 => vint f (sarElem w) s
  | _ => s.faultOpen 0 0 0

end Sys2Proof.Machine
end

