-- ==== Sys2Proof/Machine/Permute.lean ====
section
/-! DEFINITION. Permutes and mask instructions (11 R249, R250). -/

namespace Sys2Proof.Machine

/-! ### Permutes (R249) -/

/-- A permute of one vector source: `from'` says which element of rs1 an element takes, or what it is instead; none where
it stays. -/
inductive Take where
  | elem (i : Nat)
  | val (x : Nat)
  | keep
  deriving DecidableEq, Repr

/-- A permute under the mask and policies (R236, R249). -/
def vpermute (f : TR) (scal : List Reg) (more : Nat → List VPlace) (take : Nat → Take) (s : State) : Out :=
  let w := f.ty.bits
  let c := s.cur
  let a := s.opV 0 f.rs1
  vecElem f (w ≤ 32 && scal.isEmpty) scal
    { n := c.count w, w := w
      uses := fun i => more i ++ (match take i with
        | .elem k => [c.place f.rs1 w k]
        | _ => [])
      op := fun i => match take i with
        | .elem k => some (elemGet c.lanes w a k, 0)
        | .val x => some (x, 0)
        | .keep => none } id s

/-- VSLIDEUP. -/
def execVslideup (f : TR) (s : State) : Out :=
  let k := (s.opS 0 f.rs3).toNat
  vpermute f [f.rs3] (fun _ => []) (fun i => if k ≤ i then .elem (i - k) else .keep) s

/-- VSLIDEDN. -/
def execVslidedn (f : TR) (s : State) : Out :=
  let k := (s.opS 0 f.rs3).toNat
  let n := s.cur.count f.ty.bits
  vpermute f [f.rs3] (fun _ => []) (fun i => if i + k < n then .elem (i + k) else .val 0) s

/-- VPERM. -/
def execVperm (f : TR) (s : State) : Out :=
  let w := f.ty.bits
  let c := s.cur
  let ix := s.opV 1 f.rs2
  vpermute f [] (fun i => [c.place f.rs2 w i])
    (fun i => let k := elemGet c.lanes w ix i; if k < c.count w then .elem k else .val 0) s

/-- VCOMPRESS: the active elements in increasing order, and from their count on the tail policy. -/
def execVcompress (f : TR) (s : State) : Out :=
  let w := f.ty.bits
  let c := s.cur
  let n := c.count w
  if n = 0 then s.retire
  else
    let mask := s.opM 0 f.vm.toNat
    let a := s.opV 0 f.rs1
    let on := activeElems 0 n mask
    if c.badMask f.vm.toNat 0 n || on.any (fun i => c.badPlaces [c.place f.rs1 w i]) then s.poisonV
    else
      let es := on.zipIdx.map fun (i, k) => (k, elemGet c.lanes w a i)
      (s.produceMarked (c.groupVals (c.groupSlots f.rd 1) w (es ++ tailWrites on.length (c.cap w) f.tp)) 0).retire

/-- VEXPAND: each active element takes the next element of rs1. -/
def execVexpand (f : TR) (s : State) : Out :=
  let mask := s.opM 0 f.vm.toNat
  vpermute f [] (fun _ => []) (fun i => .elem ((List.range i).filter fun j => mask.getLsbD j).length) s

/-- VBCAST. -/
def execVbcast (f : TR) (s : State) : Out :=
  let w := f.ty.bits
  let x := low (s.opS 0 f.rs3).toNat w
  vecElem f (w ≤ 32) [f.rs3] { n := s.cur.count w, w := w, uses := fun _ => [], op := fun _ => some (x, 0) } id s

/-- VEXT.S: a scalar result, 0 beyond N. -/
def execVextS (f : TR) (s : State) : Out :=
  let w := f.ty.bits
  let c := s.cur
  if s.badS false [f.rs3] then s.poisonS
  else
    let k := (s.opS 0 f.rs3).toNat
    if c.count w ≤ k then (s.produceFixed [(.s f.rd.toNat, 0)] 0).retire
    else if c.badPlaces [c.place f.rs1 w k] then s.poisonV
    else (s.produceFixed [(.s f.rd.toNat, (sextWord w (elemGet c.lanes w (s.opV 0 f.rs1) k)).toNat)] 0).retire

/-- VINS.S: one element is written, if it is below N. -/
def execVinsS (f : TR) (s : State) : Out :=
  let w := f.ty.bits
  let c := s.cur
  if s.badS (w ≤ 32) [f.rs1] || s.badS false [f.rs3] then s.poisonS
  else
    let x := (s.opS 0 f.rs1).toNat
    let k := (s.opS 1 f.rs3).toNat
    if c.count w ≤ k then s.retire
    else (s.produceMarked (c.groupVals (c.groupSlots f.rd 1) w [(k, low x w)]) 0).retire

/-! ### Masks (R250) -/

/-- A mask operation of two sources: N is vl. -/
def maskOp (f : TR) (two : Bool) (op : Bool → Bool → Bool) (s : State) : Out :=
  let c := s.cur
  let n := min c.vl 8192
  if n = 0 then s.retire
  else
    let a := s.opM 0 f.rs1.toNat
    let b := s.opM 1 f.rs2.toNat
    if c.badMask f.rs1.toNat 0 n || (two && c.badMask f.rs2.toNat 0 n) then s.poisonV
    else
      let es := (List.range n).map fun i => (i, op (a.getLsbD i) (b.getLsbD i))
      (s.produceMarked [c.maskVal f.rd.toNat n f.tp es] 0).retire

/-- MAND. -/
def execMand (f : TR) (s : State) : Out := maskOp f true (· && ·) s
/-- MOR. -/
def execMor (f : TR) (s : State) : Out := maskOp f true (· || ·) s
/-- MXOR. -/
def execMxor (f : TR) (s : State) : Out := maskOp f true (· != ·) s
/-- MNOT. -/
def execMnot (f : TR) (s : State) : Out := maskOp f false (fun a _ => !a) s

/-- One of some bits of a mask register is poisoned; m0 holds nothing (R174, R363). -/
def Ctx.badBits (c : Ctx) (m : Nat) (is : List Nat) : Bool := m != 0 && is.any fun i => (c.pm.getD m 0).getLsbD (i / 2)

/-- A scalar result from the bits of a mask that another mask selects below vl: only selected bits are consumed (R240). -/
def maskRead (f : TR) (g : List Nat → Nat) (s : State) : Out :=
  let c := s.cur
  let n := min c.vl 8192
  let mk := s.opM 1 f.vm.toNat
  if c.badMask f.vm.toNat 0 n || c.badBits f.rs1.toNat ((List.range n).filter fun i => mk.getLsbD i) then s.poisonV
  else
    let x := s.opM 0 f.rs1.toNat &&& mk
    (s.produceFixed [(.s f.rd.toNat, g ((List.range n).filter fun i => x.getLsbD i))] 0).retire

/-- MPOPC. -/
def execMpopc (f : TR) (s : State) : Out := maskRead f List.length s
/-- MFIRST: the lowest such bit, or all ones. -/
def execMfirst (f : TR) (s : State) : Out := maskRead f (fun l => l.headD (2 ^ 64 - 1)) s

end Sys2Proof.Machine
end

