-- ==== Sys2Proof/Machine/VFloat.lean ====
section
/-! DEFINITION. Vector floating-point instructions and the estimates (11 R243-R246). -/

namespace Sys2Proof

/-- The value of a pattern of the instruction's type. -/
def TR.val (f : TR) (x : Nat) : Machine.FVal := Machine.decodeFp (Machine.fmtOf f.ty) x

/-- The pattern's sign bit as a weight. -/
def TR.sign (f : TR) : Nat := 2 ^ (f.ty.bits - 1)

end Sys2Proof

namespace Sys2Proof.Machine

/-! ### Shapes: operations on patterns of the type -/

/-- One source. -/
def fpJob1 (f : TR) (op : Nat → Nat × Flags) (s : State) : VJob :=
  let w := f.ty.bits
  let c := s.cur
  let a := s.opV 0 f.rs1
  { n := c.count w, w := w, unit := 1, uses := fun i => [c.place f.rs1 w i], op := fun i => some (op (elemGet c.lanes w a i)) }

/-- Two sources, the second perhaps a scalar (R237). -/
def fpJob2 (f : TR) (op : Nat → Nat → Nat × Flags) (s : State) : VJob :=
  let w := f.ty.bits
  let c := s.cur
  let a := s.opV 0 f.rs1
  let b := s.second f w
  { n := c.count w, w := w, unit := 1, uses := fun i => c.place f.rs1 w i :: c.secondPlaces f w i
    op := fun i => some (op (elemGet c.lanes w a i) (b i)) }

/-- Three sources. -/
def fpJob3 (f : TR) (op : Nat → Nat → Nat → Nat × Flags) (s : State) : VJob :=
  let w := f.ty.bits
  let c := s.cur
  let a := s.opV 0 f.rs1
  let b := s.opV 1 f.rs2
  let z := s.opV 2 f.rs3
  { n := c.count w, w := w, unit := 1, uses := fun i => [c.place f.rs1 w i, c.place f.rs2 w i, c.place f.rs3 w i]
    op := fun i => some (op (elemGet c.lanes w a i) (elemGet c.lanes w b i) (elemGet c.lanes w z i)) }

/-- A fixed-latency operation on values of one source. -/
def vfp1 (f : TR) (op : Nat → Nat × Flags) (s : State) : Out := vecElem f true [] (fpJob1 f op s) id s

/-- A fixed-latency operation on two sources. -/
def vfp2 (f : TR) (op : Nat → Nat → Nat × Flags) (s : State) : Out :=
  vecElem f true (secondScalars f) (fpJob2 f op s) id s

/-- A fixed-latency operation on three sources. -/
def vfp3 (f : TR) (op : Nat → Nat → Nat → Nat × Flags) (s : State) : Out := vecElem f true [] (fpJob3 f op s) id s

/-! ### Arithmetic (R243) -/

/-- VFADD. -/
def execVfadd (f : TR) (s : State) : Out :=
  vfp2 f (fun a b => addFp (fmtOf f.ty) (s.cur.mode f.rm) (f.val a) (f.val b)) s
/-- VFSUB. -/
def execVfsub (f : TR) (s : State) : Out :=
  vfp2 f (fun a b => addFp (fmtOf f.ty) (s.cur.mode f.rm) (f.val a) (f.val b).neg) s
/-- VFMUL. -/
def execVfmul (f : TR) (s : State) : Out :=
  vfp2 f (fun a b => mulFp (fmtOf f.ty) (s.cur.mode f.rm) (f.val a) (f.val b)) s
/-- VFMA. -/
def execVfma (f : TR) (s : State) : Out :=
  vfp3 f (fun a b z => fmaFp (fmtOf f.ty) (s.cur.mode f.rm) (f.val a) (f.val b) (f.val z)) s
/-- VFNMA: the product negated. -/
def execVfnma (f : TR) (s : State) : Out :=
  vfp3 f (fun a b z => fmaFp (fmtOf f.ty) (s.cur.mode f.rm) (f.val a).neg (f.val b) (f.val z)) s
/-- VFDIV: a variable-latency producer. -/
def execVfdiv (f : TR) (s : State) : Out :=
  vecElemVar f (fpJob2 f (fun a b => divFp (fmtOf f.ty) (s.cur.mode f.rm) (f.val a) (f.val b)) s) s
/-- VFSQRT: a variable-latency producer. -/
def execVfsqrt (f : TR) (s : State) : Out :=
  vecElemVar f (fpJob1 f (fun a => sqrtFp (fmtOf f.ty) (s.cur.mode f.rm) (f.val a)) s) s

/-! ### Without rounding (R243, R244) -/

/-- VFMIN. -/
def execVfmin (f : TR) (s : State) : Out := vfp2 f (fun a b => (minMaxFp (fmtOf f.ty) false a b, 0)) s
/-- VFMAX. -/
def execVfmax (f : TR) (s : State) : Out := vfp2 f (fun a b => (minMaxFp (fmtOf f.ty) true a b, 0)) s

/-- VFCMP: the destination is a mask register, and no flag is raised. -/
def execVfcmp (cc : Cc) (f : TR) (s : State) : Out :=
  let w := f.ty.bits
  let c := s.cur
  let a := s.opV 0 f.rs1
  let b := s.opV 1 f.rs2
  vecToMask f (c.count w) true (fun i => [c.place f.rs1 w i, c.place f.rs2 w i])
    (fun i => cmpFp cc (f.val (elemGet c.lanes w a i)) (f.val (elemGet c.lanes w b i))) s

/-- VFABS: a NaN keeps its payload. -/
def execVfabs (f : TR) (s : State) : Out := vfp1 f (fun a => (a % f.sign, 0)) s
/-- VFNEG: a NaN keeps its payload. -/
def execVfneg (f : TR) (s : State) : Out := vfp1 f (fun a => (a ^^^ f.sign, 0)) s
/-- VFEXPO. -/
def execVfexpo (f : TR) (s : State) : Out := vfp1 f (fun a => (expoFp (fmtOf f.ty) (f.val a), 0)) s
/-- VFSCALE. -/
def execVfscale (f : TR) (s : State) : Out :=
  vfp2 f (fun a b => scaleFp (fmtOf f.ty) (s.cur.mode f.rm) (f.val a) (toSigned f.ty.bits b)) s

/-! ### Estimates (R245, R246): variable-latency producers -/

/-- VRSQRTE. -/
def execVrsqrte (f : TR) (s : State) : Out := vecElemVar f { fpJob1 f (fun a => rsqrtE (f.val a)) s with unit := 0 } s
/-- VRCPE. -/
def execVrcpe (f : TR) (s : State) : Out := vecElemVar f { fpJob1 f (fun a => rcpE (f.val a)) s with unit := 0 } s
/-- VEXP2E. -/
def execVexp2e (f : TR) (s : State) : Out := vecElemVar f { fpJob1 f (fun a => exp2E (f.val a)) s with unit := 0 } s
/-- VLOG2E. -/
def execVlog2e (f : TR) (s : State) : Out := vecElemVar f { fpJob1 f (fun a => log2E (f.val a)) s with unit := 0 } s

end Sys2Proof.Machine
end

