-- ==== Sys2Proof/Machine/Reduce.lean ====
section
/-! DEFINITION. Reductions and scans (11 R247, R248). -/

namespace Sys2Proof.Machine

/-- An operator of R247 on patterns, with its flags, and its identity. -/
structure RedOp where
  op    : Nat → Nat → Nat × Flags
  ident : Nat

/-- Addition modulo 2^w. -/
def redAdd (t : Ty) : RedOp := ⟨fun a b => (addElem t.bits a b, 0), 0⟩
/-- Minimum. -/
def redMin (t : Ty) : RedOp := ⟨fun a b => (minElem t a b, 0), ofSigned t.bits (tyHi t)⟩
/-- Maximum. -/
def redMax (t : Ty) : RedOp := ⟨fun a b => (maxElem t a b, 0), ofSigned t.bits (tyLo t)⟩
/-- Floating-point sum; its identity is -0. -/
def redFadd (t : Ty) (m : Rm) : RedOp :=
  ⟨fun a b => addFp (fmtOf t) m (decodeFp (fmtOf t) a) (decodeFp (fmtOf t) b), (fmtOf t).signed true 0⟩
/-- Floating-point minimum. -/
def redFmin (t : Ty) : RedOp := ⟨fun a b => (minMaxFp (fmtOf t) false a b, 0), (fmtOf t).infCode false⟩
/-- Floating-point maximum. -/
def redFmax (t : Ty) : RedOp := ⟨fun a b => (minMaxFp (fmtOf t) true a b, 0), (fmtOf t).infCode true⟩

/-- g = min(2^GS, L) (R230). -/
def Ctx.segments (c : Ctx) : Nat := min (2 ^ bits (c.cr 3) 4 3) c.lanes

/-- The tree of R247 over a segment whose length is a power of two; `fuel` is its depth. -/
def RedOp.tree (r : RedOp) : Nat → List Nat → Nat × Flags
  | 0, l => (l.headD r.ident, 0)
  | fuel + 1, l =>
    let h := l.length / 2
    if h = 0 then (l.headD r.ident, 0)
    else
      let ps := (l.take h).zipWith r.op (l.drop h)
      let (x, fl) := r.tree fuel (ps.map Prod.fst)
      (x, (ps.map Prod.snd).foldl (· ||| ·) fl)

/-- A reduction (R247): every active element below N and the first g elements of rs2 are read. -/
def vreduce (f : TR) (r : RedOp) (s : State) : Out :=
  let c := s.cur
  let w := f.ty.bits
  let n := c.count w
  if n = 0 then s.retire
  else
    let g := c.segments
    let p := c.cap w / g
    let mask := s.opM 0 f.vm.toNat
    let a := s.opV 0 f.rs1
    let b := s.opV 1 f.rs2
    let on := activeElems 0 n mask
    if c.badMask f.vm.toNat 0 n || on.any (fun i => c.badPlaces [c.place f.rs1 w i])
        || (List.range g).any (fun i => c.badPlaces [c.place f.rs2 w i]) then s.poisonV
    else
      let rs := (List.range g).map fun k =>
        let leaves := (List.range p).map fun j =>
          let i := k * p + j
          if i < n && mask.getLsbD i then elemGet c.lanes w a i else r.ident
        let (x, fl) := r.tree 14 leaves
        let (y, fl') := r.op (elemGet c.lanes w b k) x
        ((k, y), fl ||| fl')
      let fl := (rs.map Prod.snd).foldl (· ||| ·) 0
      let es := rs.map Prod.fst
      (s.produceMarked (c.groupVals (c.groupSlots f.rd 1) w (es ++ tailWrites g (c.cap w) f.tp)) fl).retire

/-- One pass of the prefix network at distance `d` (R248): every place from old values. -/
def RedOp.pass (r : RedOp) (d : Nat) (l : List Nat) : List Nat × Flags :=
  let ps := l.zipWith r.op (l.drop d)
  (l.take d ++ ps.map Prod.fst, (ps.map Prod.snd).foldl (· ||| ·) 0)

/-- The prefix network from distance `d` on (R248). -/
def RedOp.network (r : RedOp) : Nat → Nat → List Nat → List Nat × Flags
  | 0, _, l => (l, 0)
  | fuel + 1, d, l =>
    if l.length ≤ d then (l, 0)
    else
      let (l, fl) := r.pass d l
      let (l, fl') := r.network fuel (2 * d) l
      (l, fl ||| fl')

/-- The chunks of a segment in order (R248): chunk bases, the carry, and the leaves of an index. -/
def RedOp.chunks (r : RedOp) (len : Nat) (leaf : Nat → Nat) (live : Nat → Bool) :
    List Nat → Nat → List (Nat × Nat) × Flags
  | [], _ => ([], 0)
  | base :: rest, carry =>
    let (p, fl) := r.network 6 1 ((List.range len).map fun j => leaf (base + j))
    let mine := (p.zipIdx.filter fun (_, j) => live (base + j)).map fun (x, j) => (base + j, r.op carry x)
    let (next, fl') := r.op carry (p.getLastD r.ident)
    let (es, fl'') := r.chunks len leaf live rest next
    (mine.map (fun e => (e.1, e.2.1)) ++ es, (mine.map fun e => e.2.2).foldl (· ||| ·) (fl ||| fl' ||| fl''))

/-- A scan (R248): chunks at or above N are not run. -/
def vscanWith (f : TR) (r : RedOp) (s : State) : Out :=
  let c := s.cur
  let w := f.ty.bits
  let n := c.count w
  if n = 0 then s.retire
  else
    let g := c.segments
    let p := c.cap w / g
    let len := min c.lanes p
    let mask := s.opM 0 f.vm.toNat
    let a := s.opV 0 f.rs1
    let live (i : Nat) : Bool := i < n && mask.getLsbD i
    if c.badMask f.vm.toNat 0 n || (activeElems 0 n mask).any (fun i => c.badPlaces [c.place f.rs1 w i]) then s.poisonV
    else
      let leaf (i : Nat) : Nat := if live i then elemGet c.lanes w a i else r.ident
      let segs := (List.range g).map fun k =>
        r.chunks len leaf live (((List.range (p / len)).map fun j => k * p + j * len).filter (· < n)) r.ident
      let fl := (segs.map Prod.snd).foldl (· ||| ·) 0
      let off := if f.mp then ((List.range n).filter fun i => !mask.getLsbD i).map fun i => (i, 0) else []
      (s.produceMarked (c.groupVals (c.groupSlots f.rd 1) w
        (segs.flatMap Prod.fst ++ off ++ tailWrites n (c.cap w) f.tp)) fl).retire

/-! ### Meanings -/

/-- VREDSUM. -/
def execVredsum (f : TR) (s : State) : Out := vreduce f (redAdd f.ty) s
/-- VFREDSUM. -/
def execVfredsum (f : TR) (s : State) : Out := vreduce f (redFadd f.ty (s.cur.mode f.rm)) s
/-- VREDMIN. -/
def execVredmin (f : TR) (s : State) : Out := vreduce f (redMin f.ty) s
/-- VREDMAX. -/
def execVredmax (f : TR) (s : State) : Out := vreduce f (redMax f.ty) s
/-- VFREDMIN. -/
def execVfredmin (f : TR) (s : State) : Out := vreduce f (redFmin f.ty) s
/-- VFREDMAX. -/
def execVfredmax (f : TR) (s : State) : Out := vreduce f (redFmax f.ty) s

/-- VSCAN. -/
def execVscan (op : ScanOp) (f : TR) (s : State) : Out :=
  vscanWith f (match op with
    | .add => redAdd f.ty
    | .min => redMin f.ty
    | .max => redMax f.ty
    | .fadd => redFadd f.ty (s.cur.mode f.rm)) s

end Sys2Proof.Machine
end

