-- ==== Sys2Proof/Machine/Dispatch.lean ====
section
/-! DEFINITION. The dispatcher: one arm per constructor of `Instr`, each a direct call of that instruction's meaning. -/

namespace Sys2Proof.Machine

/-- What an instruction or an event does to a state. -/
def exec (i : Instr) (s : State) : Host.Outcome State Fault Refusal :=
  match i with
  | .add rd rs1 rs2 => Sys2Proof.Machine.execAdd rd rs1 rs2 s
  | .sub rd rs1 rs2 => Sys2Proof.Machine.execSub rd rs1 rs2 s
  | .mul rd rs1 rs2 => Sys2Proof.Machine.execMul rd rs1 rs2 s
  | .mulh rd rs1 rs2 => Sys2Proof.Machine.execMulh rd rs1 rs2 s
  | .mulhu rd rs1 rs2 => Sys2Proof.Machine.execMulhu rd rs1 rs2 s
  | .div rd rs1 rs2 => Sys2Proof.Machine.execDiv rd rs1 rs2 s
  | .divu rd rs1 rs2 => Sys2Proof.Machine.execDivu rd rs1 rs2 s
  | .rem rd rs1 rs2 => Sys2Proof.Machine.execRem rd rs1 rs2 s
  | .remu rd rs1 rs2 => Sys2Proof.Machine.execRemu rd rs1 rs2 s
  | .and rd rs1 rs2 => Sys2Proof.Machine.execAnd rd rs1 rs2 s
  | .or rd rs1 rs2 => Sys2Proof.Machine.execOr rd rs1 rs2 s
  | .xor rd rs1 rs2 => Sys2Proof.Machine.execXor rd rs1 rs2 s
  | .shl rd rs1 rs2 => Sys2Proof.Machine.execShl rd rs1 rs2 s
  | .shr rd rs1 rs2 => Sys2Proof.Machine.execShr rd rs1 rs2 s
  | .sar rd rs1 rs2 => Sys2Proof.Machine.execSar rd rs1 rs2 s
  | .slt rd rs1 rs2 => Sys2Proof.Machine.execSlt rd rs1 rs2 s
  | .sltu rd rs1 rs2 => Sys2Proof.Machine.execSltu rd rs1 rs2 s
  | .min rd rs1 rs2 => Sys2Proof.Machine.execMin rd rs1 rs2 s
  | .max rd rs1 rs2 => Sys2Proof.Machine.execMax rd rs1 rs2 s
  | .minu rd rs1 rs2 => Sys2Proof.Machine.execMinu rd rs1 rs2 s
  | .maxu rd rs1 rs2 => Sys2Proof.Machine.execMaxu rd rs1 rs2 s
  | .clz rd rs1 => Sys2Proof.Machine.execClz rd rs1 s
  | .ctz rd rs1 => Sys2Proof.Machine.execCtz rd rs1 s
  | .popc rd rs1 => Sys2Proof.Machine.execPopc rd rs1 s
  | .mov rd rs1 => Sys2Proof.Machine.execMov rd rs1 s
  | .sel rd rs1 rs2 rs3 => Sys2Proof.Machine.execSel rd rs1 rs2 rs3 s
  | .addi rd rs1 imm => Sys2Proof.Machine.execAddi rd rs1 imm s
  | .andi rd rs1 imm => Sys2Proof.Machine.execAndi rd rs1 imm s
  | .ori rd rs1 imm => Sys2Proof.Machine.execOri rd rs1 imm s
  | .xori rd rs1 imm => Sys2Proof.Machine.execXori rd rs1 imm s
  | .shli rd rs1 n => Sys2Proof.Machine.execShli rd rs1 n s
  | .shri rd rs1 n => Sys2Proof.Machine.execShri rd rs1 n s
  | .sari rd rs1 n => Sys2Proof.Machine.execSari rd rs1 n s
  | .slti rd rs1 imm => Sys2Proof.Machine.execSlti rd rs1 imm s
  | .sext rd rs1 w => Sys2Proof.Machine.execSext rd rs1 w s
  | .zext rd rs1 w => Sys2Proof.Machine.execZext rd rs1 w s
  | .bfx rd rs1 pos len => Sys2Proof.Machine.execBfx rd rs1 pos len s
  | .bfi rd rs1 pos len => Sys2Proof.Machine.execBfi rd rs1 pos len s
  | .li rd imm => Sys2Proof.Machine.execLi rd imm s
  | .liHi rd imm => Sys2Proof.Machine.execLiHi rd imm s
  | .fadd rd rs1 rs2 rm => Sys2Proof.Machine.execFadd rd rs1 rs2 rm s
  | .fsub rd rs1 rs2 rm => Sys2Proof.Machine.execFsub rd rs1 rs2 rm s
  | .fmul rd rs1 rs2 rm => Sys2Proof.Machine.execFmul rd rs1 rs2 rm s
  | .fdiv rd rs1 rs2 rm => Sys2Proof.Machine.execFdiv rd rs1 rs2 rm s
  | .fsqrt rd rs1 rm => Sys2Proof.Machine.execFsqrt rd rs1 rm s
  | .ffma rd rs1 rs2 rs3 rm => Sys2Proof.Machine.execFfma rd rs1 rs2 rs3 rm s
  | .fmin rd rs1 rs2 => Sys2Proof.Machine.execFmin rd rs1 rs2 s
  | .fmax rd rs1 rs2 => Sys2Proof.Machine.execFmax rd rs1 rs2 s
  | .fcmpEq rd rs1 rs2 => Sys2Proof.Machine.execFcmpEq rd rs1 rs2 s
  | .fcmpLt rd rs1 rs2 => Sys2Proof.Machine.execFcmpLt rd rs1 rs2 s
  | .fcmpLe rd rs1 rs2 => Sys2Proof.Machine.execFcmpLe rd rs1 rs2 s
  | .fcmpUo rd rs1 rs2 => Sys2Proof.Machine.execFcmpUo rd rs1 rs2 s
  | .fclass rd rs1 => Sys2Proof.Machine.execFclass rd rs1 s
  | .fneg rd rs1 => Sys2Proof.Machine.execFneg rd rs1 s
  | .fabs rd rs1 => Sys2Proof.Machine.execFabs rd rs1 s
  | .fcvtI32F32 rd rs1 rm => Sys2Proof.Machine.execFcvtI32F32 rd rs1 rm s
  | .fcvtN32F32 rd rs1 rm => Sys2Proof.Machine.execFcvtN32F32 rd rs1 rm s
  | .fcvtI64F32 rd rs1 rm => Sys2Proof.Machine.execFcvtI64F32 rd rs1 rm s
  | .fcvtF32I32 rd rs1 rm => Sys2Proof.Machine.execFcvtF32I32 rd rs1 rm s
  | .fcvtF32N32 rd rs1 rm => Sys2Proof.Machine.execFcvtF32N32 rd rs1 rm s
  | .fcvtF32I64 rd rs1 rm => Sys2Proof.Machine.execFcvtF32I64 rd rs1 rm s
  | .pairScalarRR fn rd rs rs2 => Sys2Proof.Machine.execPairScalarRR fn rd rs rs2 s
  | .pairAddi rd rs imm => Sys2Proof.Machine.execPairAddi rd rs imm s
  | .pairAndi rd rs imm => Sys2Proof.Machine.execPairAndi rd rs imm s
  | .pairOri rd rs imm => Sys2Proof.Machine.execPairOri rd rs imm s
  | .pairXori rd rs imm => Sys2Proof.Machine.execPairXori rd rs imm s
  | .pairShli rd rs n => Sys2Proof.Machine.execPairShli rd rs n s
  | .pairShri rd rs n => Sys2Proof.Machine.execPairShri rd rs n s
  | .pairSari rd rs n => Sys2Proof.Machine.execPairSari rd rs n s
  | .pairSlti rd rs imm => Sys2Proof.Machine.execPairSlti rd rs imm s
  | .pairLi rd imm => Sys2Proof.Machine.execPairLi rd imm s
  | .pairLd sz rd rs imm => Sys2Proof.Machine.execPairLd sz rd rs imm s
  | .pairSt sz rd rs imm => Sys2Proof.Machine.execPairSt sz rd rs imm s
  | .pairFpRR fn rd rs rs2 => Sys2Proof.Machine.execPairFpRR fn rd rs rs2 s
  | .pairVectorRR fn rd rs rs2 => Sys2Proof.Machine.execPairVectorRR fn rd rs rs2 s
  | .beq rs1 rs2 off => Sys2Proof.Machine.execBeq rs1 rs2 off s
  | .bne rs1 rs2 off => Sys2Proof.Machine.execBne rs1 rs2 off s
  | .blt rs1 rs2 off => Sys2Proof.Machine.execBlt rs1 rs2 off s
  | .bge rs1 rs2 off => Sys2Proof.Machine.execBge rs1 rs2 off s
  | .bltu rs1 rs2 off => Sys2Proof.Machine.execBltu rs1 rs2 off s
  | .bgeu rs1 rs2 off => Sys2Proof.Machine.execBgeu rs1 rs2 off s
  | .jmp off => Sys2Proof.Machine.execJmp off s
  | .jal rd off => Sys2Proof.Machine.execJal rd off s
  | .ret rs1 => Sys2Proof.Machine.execRet rs1 s
  | .loop off => Sys2Proof.Machine.execLoop off s
  | .loopInit rs1 stages => Sys2Proof.Machine.execLoopInit rs1 stages s
  | .yield => Sys2Proof.Machine.execYield s
  | .setvl rd rs1 sew => Sys2Proof.Machine.execSetvl rd rs1 sew s
  | .vclaim rd req floor => Sys2Proof.Machine.execVclaim rd req floor s
  | .vcfg rd gs mp tp => Sys2Proof.Machine.execVcfg rd gs mp tp s
  | .vadd f => Sys2Proof.Machine.execVadd f s
  | .vsub f => Sys2Proof.Machine.execVsub f s
  | .vmul f => Sys2Proof.Machine.execVmul f s
  | .vmulh f => Sys2Proof.Machine.execVmulh f s
  | .vmin f => Sys2Proof.Machine.execVmin f s
  | .vmax f => Sys2Proof.Machine.execVmax f s
  | .vand f => Sys2Proof.Machine.execVand f s
  | .vor f => Sys2Proof.Machine.execVor f s
  | .vxor f => Sys2Proof.Machine.execVxor f s
  | .vshl f => Sys2Proof.Machine.execVshl f s
  | .vshr f => Sys2Proof.Machine.execVshr f s
  | .vsar f => Sys2Proof.Machine.execVsar f s
  | .vcmp cc f => Sys2Proof.Machine.execVcmp cc f s
  | .vsel f => Sys2Proof.Machine.execVsel f s
  | .vwadd f => Sys2Proof.Machine.execVwadd f s
  | .vwmul f => Sys2Proof.Machine.execVwmul f s
  | .vnarrow f => Sys2Proof.Machine.execVnarrow f s
  | .vdot4 f => Sys2Proof.Machine.execVdot4 f s
  | .vfadd f => Sys2Proof.Machine.execVfadd f s
  | .vfsub f => Sys2Proof.Machine.execVfsub f s
  | .vfmul f => Sys2Proof.Machine.execVfmul f s
  | .vfma f => Sys2Proof.Machine.execVfma f s
  | .vfnma f => Sys2Proof.Machine.execVfnma f s
  | .vfdiv f => Sys2Proof.Machine.execVfdiv f s
  | .vfsqrt f => Sys2Proof.Machine.execVfsqrt f s
  | .vfmin f => Sys2Proof.Machine.execVfmin f s
  | .vfmax f => Sys2Proof.Machine.execVfmax f s
  | .vfcmp cc f => Sys2Proof.Machine.execVfcmp cc f s
  | .vfabs f => Sys2Proof.Machine.execVfabs f s
  | .vfneg f => Sys2Proof.Machine.execVfneg f s
  | .vfexpo f => Sys2Proof.Machine.execVfexpo f s
  | .vfscale f => Sys2Proof.Machine.execVfscale f s
  | .vrsqrte f => Sys2Proof.Machine.execVrsqrte f s
  | .vrcpe f => Sys2Proof.Machine.execVrcpe f s
  | .vexp2e f => Sys2Proof.Machine.execVexp2e f s
  | .vlog2e f => Sys2Proof.Machine.execVlog2e f s
  | .vcvt f => Sys2Proof.Machine.execVcvt f s
  | .vcvtSr f => Sys2Proof.Machine.execVcvtSr f s
  | .vmxscale f => Sys2Proof.Machine.execVmxscale f s
  | .vmxq sr f => Sys2Proof.Machine.execVmxq sr f s
  | .vmxdq f => Sys2Proof.Machine.execVmxdq f s
  | .vredsum f => Sys2Proof.Machine.execVredsum f s
  | .vfredsum f => Sys2Proof.Machine.execVfredsum f s
  | .vredmin f => Sys2Proof.Machine.execVredmin f s
  | .vredmax f => Sys2Proof.Machine.execVredmax f s
  | .vfredmin f => Sys2Proof.Machine.execVfredmin f s
  | .vfredmax f => Sys2Proof.Machine.execVfredmax f s
  | .vscan op f => Sys2Proof.Machine.execVscan op f s
  | .vslideup f => Sys2Proof.Machine.execVslideup f s
  | .vslidedn f => Sys2Proof.Machine.execVslidedn f s
  | .vperm f => Sys2Proof.Machine.execVperm f s
  | .vcompress f => Sys2Proof.Machine.execVcompress f s
  | .vexpand f => Sys2Proof.Machine.execVexpand f s
  | .vbcast f => Sys2Proof.Machine.execVbcast f s
  | .vextS f => Sys2Proof.Machine.execVextS f s
  | .vinsS f => Sys2Proof.Machine.execVinsS f s
  | .mand f => Sys2Proof.Machine.execMand f s
  | .mor f => Sys2Proof.Machine.execMor f s
  | .mxor f => Sys2Proof.Machine.execMxor f s
  | .mnot f => Sys2Proof.Machine.execMnot f s
  | .mpopc f => Sys2Proof.Machine.execMpopc f s
  | .mfirst f => Sys2Proof.Machine.execMfirst f s
  | .mshape f => Sys2Proof.Machine.execMshape f s
  | .mzero f => Sys2Proof.Machine.execMzero f s
  | .mpm blk fet f => Sys2Proof.Machine.execMpm blk fet f s
  | .mopa f => Sys2Proof.Machine.execMopa f s
  | .mfetch f => Sys2Proof.Machine.execMfetch f s
  | .mscacc f => Sys2Proof.Machine.execMscacc f s
  | .mext f => Sys2Proof.Machine.execMext f s
  | .mextFlags f => Sys2Proof.Machine.execMextFlags f s
  | .mins f => Sys2Proof.Machine.execMins f s
  | .mld f => Sys2Proof.Machine.execMld f s
  | .mst f => Sys2Proof.Machine.execMst f s
  | .ld rd rs1 sz ord sc disp => Sys2Proof.Machine.execLd rd rs1 sz ord sc disp s
  | .st rs1 rs2 sz ord sc disp => Sys2Proof.Machine.execSt rs1 rs2 sz ord sc disp s
  | .qset qd rs1 rs2 esz chain sc => Sys2Proof.Machine.execQset qd rs1 rs2 esz chain sc s
  | .qstr qd rs1 => Sys2Proof.Machine.execQstr qd rs1 s
  | .qlen rd qs => Sys2Proof.Machine.execQlen rd qs s
  | .qinfo rd qs sel => Sys2Proof.Machine.execQinfo rd qs sel s
  | .vld f => Sys2Proof.Machine.execVld f s
  | .vldff f => Sys2Proof.Machine.execVldff f s
  | .vst f => Sys2Proof.Machine.execVst f s
  | .vldx f => Sys2Proof.Machine.execVldx f s
  | .vstx f => Sys2Proof.Machine.execVstx f s
  | .amoAdd f => Sys2Proof.Machine.execAmoAdd f s
  | .amoAnd f => Sys2Proof.Machine.execAmoAnd f s
  | .amoOr f => Sys2Proof.Machine.execAmoOr f s
  | .amoXor f => Sys2Proof.Machine.execAmoXor f s
  | .amoMin f => Sys2Proof.Machine.execAmoMin f s
  | .amoMax f => Sys2Proof.Machine.execAmoMax f s
  | .amoSwap f => Sys2Proof.Machine.execAmoSwap f s
  | .amocas rd rs1 rs2 rs3 dbl ord sc disp => Sys2Proof.Machine.execAmocas rd rs1 rs2 rs3 dbl ord sc disp s
  | .famoAdd rd rs1 rs2 ord sc disp => Sys2Proof.Machine.execFamoAdd rd rs1 rs2 ord sc disp s
  | .fence sc => Sys2Proof.Machine.execFence sc s
  | .fenceB => Sys2Proof.Machine.execFenceB s
  | .clnR rs1 rs2 => Sys2Proof.Machine.execClnR rs1 rs2 s
  | .invR rs1 rs2 => Sys2Proof.Machine.execInvR rs1 rs2 s
  | .cinvR rs1 rs2 => Sys2Proof.Machine.execCinvR rs1 rs2 s
  | .discR rs1 rs2 => Sys2Proof.Machine.execDiscR rs1 rs2 s
  | .happ rs1 rs2 => Sys2Proof.Machine.execHapp rs1 rs2 s
  | .hld rd rs1 rs2 res e => Sys2Proof.Machine.execHld rd rs1 rs2 res e s
  | .hldv rd rs1 rs2 res => Sys2Proof.Machine.execHldv rd rs1 rs2 res s
  | .hstat rd rs1 sel lev => Sys2Proof.Machine.execHstat rd rs1 sel lev s
  | .kvapp rd rs1 => Sys2Proof.Machine.execKvapp rd rs1 s
  | .poolPop rd rs1 => Sys2Proof.Machine.execPoolPop rd rs1 s
  | .poolPush rs1 rs2 => Sys2Proof.Machine.execPoolPush rs1 rs2 s
  | .proof n k1 rs2 => Sys2Proof.Machine.execProof n k1 rs2 s
  | .unproof n => Sys2Proof.Machine.execUnproof n s
  | .ownGive n k1 dest => Sys2Proof.Machine.execOwnGive n k1 dest s
  | .ownTake n k1 => Sys2Proof.Machine.execOwnTake n k1 s
  | .ownTest rd n => Sys2Proof.Machine.execOwnTest rd n s
  | .sld n off rs1 rs2 => Sys2Proof.Machine.execSld n off rs1 rs2 s
  | .sst n off rs1 rs2 => Sys2Proof.Machine.execSst n off rs1 rs2 s
  | .cpy rs1 => Sys2Proof.Machine.execCpy rs1 s
  | .enq rs1 => Sys2Proof.Machine.execEnq rs1 s
  | .enqb rd rs1 mk => Sys2Proof.Machine.execEnqb rd rs1 mk s
  | .nodeDone => Sys2Proof.Machine.execNodeDone s
  | .rallyRun n => Sys2Proof.Machine.execRallyRun n s
  | .rallyStat rd n => Sys2Proof.Machine.execRallyStat rd n s
  | .bcmd rs1 => Sys2Proof.Machine.execBcmd rs1 s
  | .bgath rd rs1 rs2 mk ef => Sys2Proof.Machine.execBgath rd rs1 rs2 mk ef s
  | .bscadd rd rs1 rs2 mk ef => Sys2Proof.Machine.execBscadd rd rs1 rs2 mk ef s
  | .barArr rd lvl => Sys2Proof.Machine.execBarArr rd lvl s
  | .barWait rs1 lvl => Sys2Proof.Machine.execBarWait rs1 lvl s
  | .barSync lvl => Sys2Proof.Machine.execBarSync lvl s
  | .wfe rd rs1 => Sys2Proof.Machine.execWfe rd rs1 s
  | .trap code => Sys2Proof.Machine.execTrap code s
  | .eret => Sys2Proof.Machine.execEret s
  | .svc code => Sys2Proof.Machine.execSvc code s
  | .brk code => Sys2Proof.Machine.execBrk code s
  | .ctlRd rd num => Sys2Proof.Machine.execCtlRd rd num s
  | .ctlWr num rs1 => Sys2Proof.Machine.execCtlWr num rs1 s
  | .ctlSet num rs1 => Sys2Proof.Machine.execCtlSet num rs1 s
  | .ctlClr num rs1 => Sys2Proof.Machine.execCtlClr num rs1 s
  | .ctxResume rs1 => Sys2Proof.Machine.execCtxResume rs1 s
  | .ctxResumeRetire rs1 => Sys2Proof.Machine.execCtxResumeRetire rs1 s
  | .pteInv rs1 rs2 sc => Sys2Proof.Machine.execPteInv rs1 rs2 sc s
  | .hcfgRegister rs1 => Sys2Proof.Machine.execHcfgRegister rs1 s
  | .hcfgRestart rs1 => Sys2Proof.Machine.execHcfgRestart rs1 s
  | .hcfgRetire rs1 => Sys2Proof.Machine.execHcfgRetire rs1 s
  | .dispatchNode => Sys2Proof.Machine.execDispatchNode s
  | .clusterDrain slot => Sys2Proof.Machine.execClusterDrain slot s
  | .contextSwitchOut slot => Sys2Proof.Machine.execContextSwitchOut slot s
  | .contextResume slot cluster hart => Sys2Proof.Machine.execContextResume slot cluster hart s
  | .registerGranuleEvict slot granule => Sys2Proof.Machine.execRegisterGranuleEvict slot granule s
  | .producerComplete slot tag => Sys2Proof.Machine.execProducerComplete slot tag s
  | .postedCauseTaken => Sys2Proof.Machine.execPostedCauseTaken s
  | .asyncEventTaken => Sys2Proof.Machine.execAsyncEventTaken s
  | .timerEvent slot => Sys2Proof.Machine.execTimerEvent slot s
  | .signalEvent slot => Sys2Proof.Machine.execSignalEvent slot s
  | .watchdogHalfLimit slot => Sys2Proof.Machine.execWatchdogHalfLimit slot s
  | .watchdogExpiry slot => Sys2Proof.Machine.execWatchdogExpiry slot s
  | .timeBasePeriod => Sys2Proof.Machine.execTimeBasePeriod s
  | .resourceGrant cluster res => Sys2Proof.Machine.execResourceGrant cluster res s
  | .wfeWake slot why => Sys2Proof.Machine.execWfeWake slot why s
  | .lineWriteBack k owner line => Sys2Proof.Machine.execLineWriteBack k owner line s
  | .dirtyWriteBackSweep => Sys2Proof.Machine.execDirtyWriteBackSweep s
  | .lineStaleTimeout k owner line => Sys2Proof.Machine.execLineStaleTimeout k owner line s
  | .watermarkBeacon die => Sys2Proof.Machine.execWatermarkBeacon die s
  | .homeApplyWrite origin => Sys2Proof.Machine.execHomeApplyWrite origin s
  | .lineFillReturn k owner line => Sys2Proof.Machine.execLineFillReturn k owner line s
  | .stalledWriteResume slot => Sys2Proof.Machine.execStalledWriteResume slot s
  | .rowActivateHint line idle => Sys2Proof.Machine.execRowActivateHint line idle s
  | .chainHeaderRead slot q => Sys2Proof.Machine.execChainHeaderRead slot q s
  | .chainPrefetch slot q => Sys2Proof.Machine.execChainPrefetch slot q s
  | .stagerPromotion slot page => Sys2Proof.Machine.execStagerPromotion slot page s
  | .stagerDemotion part => Sys2Proof.Machine.execStagerDemotion part s
  | .stagingWaitExpiry slot => Sys2Proof.Machine.execStagingWaitExpiry slot s
  | .patrolScrubLine line found => Sys2Proof.Machine.execPatrolScrubLine line found s
  | .frameScrub frame => Sys2Proof.Machine.execFrameScrub frame s
  | .frameOwnerTableWrite frame val => Sys2Proof.Machine.execFrameOwnerTableWrite frame val s
  | .keySlotRekey key allot => Sys2Proof.Machine.execKeySlotRekey key allot s
  | .kneaderMerge desc level => Sys2Proof.Machine.execKneaderMerge desc level s
  | .kneaderExpire desc => Sys2Proof.Machine.execKneaderExpire desc s
  | .stalledAppendCommit slot => Sys2Proof.Machine.execStalledAppendCommit slot s
  | .historyNodeAppend slot => Sys2Proof.Machine.execHistoryNodeAppend slot s
  | .engineCommandComplete id => Sys2Proof.Machine.execEngineCommandComplete id s
  | .rallySortDone cluster => Sys2Proof.Machine.execRallySortDone cluster s
  | .rallyPark cluster steps => Sys2Proof.Machine.execRallyPark cluster steps s
  | .rallyResume cluster => Sys2Proof.Machine.execRallyResume cluster s
  | .matrixEntryComplete slot => Sys2Proof.Machine.execMatrixEntryComplete slot s
  | .tileFetchLineRead slot => Sys2Proof.Machine.execTileFetchLineRead slot s
  | .bankCommandComplete id => Sys2Proof.Machine.execBankCommandComplete id s
  | .bankCommandStop id => Sys2Proof.Machine.execBankCommandStop id s
  | .mailboxMessage id block => Sys2Proof.Machine.execMailboxMessage id block s
  | .bgathDataReturn id => Sys2Proof.Machine.execBgathDataReturn id s
  | .bscaddUpdate id => Sys2Proof.Machine.execBscaddUpdate id s
  | .launch part val => Sys2Proof.Machine.execLaunch part val s
  | .submissionRingEntry part => Sys2Proof.Machine.execSubmissionRingEntry part s
  | .intpost part val => Sys2Proof.Machine.execIntpost part val s
  | .l2scr part val => Sys2Proof.Machine.execL2scr part val s
  | .l2WayConversionDone part => Sys2Proof.Machine.execL2WayConversionDone part s
  | .psched part val => Sys2Proof.Machine.execPsched part val s
  | .ppol part val => Sys2Proof.Machine.execPpol part val s
  | .partitionResourceWrite part res val => Sys2Proof.Machine.execPartitionResourceWrite part res val s
  | .stgstat part val => Sys2Proof.Machine.execStgstat part val s
  | .registerWrite off val => Sys2Proof.Machine.execRegisterWrite off val s
  | .warm => Sys2Proof.Machine.execWarm s
  | .faultTriggeredWarmReset => Sys2Proof.Machine.execFaultTriggeredWarmReset s
  | .coldStart => Sys2Proof.Machine.execColdStart s
  | .warmStartComplete => Sys2Proof.Machine.execWarmStartComplete s
  | .firmwareUpdate image => Sys2Proof.Machine.execFirmwareUpdate image s
  | .linkFlitReceive port seq good => Sys2Proof.Machine.execLinkFlitReceive port seq good s
  | .linkReplay port seq => Sys2Proof.Machine.execLinkReplay port seq s
  | .laneRepair port lane => Sys2Proof.Machine.execLaneRepair port lane s
  | .retrain port good => Sys2Proof.Machine.execRetrain port good s
  | .portDown port => Sys2Proof.Machine.execPortDown port s
  | .remoteAccess wr pa n val => Sys2Proof.Machine.execRemoteAccess wr pa n val s
  | .rootPortWrite pa n val relaxed => Sys2Proof.Machine.execRootPortWrite pa n val relaxed s
  | .powerManagerInterval forecast hottest clusters => Sys2Proof.Machine.execPowerManagerInterval forecast hottest clusters s
  | .sensorSample => Sys2Proof.Machine.execSensorSample s
  | .spdmRequest nonce => Sys2Proof.Machine.execSpdmRequest nonce s
  | .applicationCoreAccess wr pa n val => Sys2Proof.Machine.execApplicationCoreAccess wr pa n val s
  | .rootPortRead pa n => Sys2Proof.Machine.execRootPortRead pa n s
  | .stgctl part val => Sys2Proof.Machine.execStgctl part val s

end Sys2Proof.Machine
end

