-- ==== Sys2Proof/Machine/Step.lean ====
section
/-! DEFINITION. The step of the module: the next move of the agenda, or one word of the context in focus. -/

namespace Sys2Proof.Machine

/-- A pair (07 R163): both slots read what stood before the word, and both results are written together. Each slot is tried
on the state before the word; a slot that does not retire decides the word, slot A before slot B. -/
def runPair (a b : Instr) (s : State) : Out :=
  let s := s.mapCur fun c => { c with views := some c.view }
  match exec a s with
  | .next sa =>
    if sa.cur.fate != .retired then .next (sa.mapCur fun c => { c with views := none })
    else
      let inB (s : State) : State := s.mapCur fun c => { c with pslot := 1 }
      match exec b (inB s) with
      | .next sb =>
        if sb.cur.fate != .retired then .next (sb.mapCur fun c => { c with views := none, pslot := 0 })
        else match exec b (inB sa) with
          | .next sc => .next (sc.mapCur Ctx.endPair)
          | o => o
      | o => o
  | o => o

/-- The word that issues (07 R159, R160). A producer that runs again after a late fault runs alone (R169). -/
def runWord (w : IWord) (s : State) : Out :=
  match w.body with
  | .full i => exec i s
  | .pair a b => if s.cur.rpt then exec (if s.cur.pslot = 1 then b else a) s else runPair a b s

/-- One word of the context in focus, or the cause or event taken before it (20 R354). -/
def stepWord (s : State) : Out :=
  match s.boundary with
  | .taken s => .next s.tick
  | .issue w s => runWord w s

/-- The hart in focus is free (19 R341): another running context comes into focus, or the dispatcher places a node. -/
def stepIdle (s : State) : Out :=
  match s.nextRunning with
  | some h => .next (s.focus h)
  | none => exec .dispatchNode s.tick

/-- What comes next of the context in focus. -/
def stepFocus (s : State) : Out := if s.cur.status = .running then stepWord s else stepIdle s

/-- A hart runs a context. -/
def State.runs (s : State) (h : Nat) : Bool := (s.cur :: s.others).any fun c => c.status == .running && c.hartNum == h

/-- An error arises in the stored code of a DRAM line (R73, R74); one that cannot be corrected stays so. -/
def State.flaw (s : State) (line : Nat) (hard : Bool) : State :=
  match region (128 * line) with
  | .fast | .cap | .reserve =>
    { s with latent := (line, hard || s.latent.contains (line, true)) :: s.latent.filter fun e => e.1 != line }
  | _ => s

/-- The context of a slot is pre-empted within its next word (R152): a long vector instruction stops before element `k`, and any other
word has not been issued. -/
def stepStop (slot k : Nat) (s : State) : Out :=
  match s.ctxOf slot with
  | none => .next s
  | some c =>
    if c.status != .running then .next s
    else match stepWord ((s.focus c.hartNum).mapCur fun c => { c with cut := some k }) with
      | .next t =>
        if t.cur.slot == slot && t.cur.fate == .stopped then exec (.contextSwitchOut slot) (t.mapCur fun c => { c with cut := none })
        else exec (.contextSwitchOut slot) s
      | _ => exec (.contextSwitchOut slot) s

/-- An uncorrectable error is found in granule `k` of a register (R363): every position in it is marked poisoned. A position has 2 bits
in a vector or mask register, 32 bits in a scalar one, and is one element of a tile. -/
def Ctx.upset (c : Ctx) (r : PReg) (k : Nat) : Ctx :=
  match r with
  | .s n => if n = 0 || 2 ≤ k then c else { c with ps := setBits c.ps (2 * n + k) 1 1 }
  | .v n => if 16 * c.lanes ≤ k then c else { c with pv := c.pv.setIfInBounds n (setBits (c.pv.getD n 0) (16 * k) 16 0xFFFF) }
  | .m n => if n = 0 || 256 ≤ k then c else { c with pm := c.pm.setIfInBounds n (setBits (c.pm.getD n 0) (16 * k) 16 0xFFFF) }
  | .t n =>
    if 256 * c.lanes ≤ k then c
    else
      let t := c.t.getD n {}
      { c with t := c.t.setIfInBounds n { t with poison := setBits t.poison k 1 1 } }
  | _ => c

/-- A move of the agenda (log 2). A hart that runs no context has no turn. -/
def stepMove (m : Move) (s : State) : Out :=
  match m with
  | .event i => if isEvent i then exec i s.tick else .next s.tick
  | .turn h => if s.runs h then stepFocus (s.focus h) else .next s.tick
  | .flaw l hard => .next (s.tick.flaw l hard)
  | .stop slot k => stepStop slot k s
  | .upset slot r k => .next (s.tick.mapCtx slot fun c => if c.live then c.upset r k else c)

/-- One step of the module (log 2): the oldest move of the agenda, or, with the agenda empty, what comes next of the context in
focus. -/
def step (s : State) : Host.Outcome State Fault Refusal :=
  match s.agenda with
  | m :: r => stepMove m { s with agenda := r }
  | [] => stepFocus s

/-! ### A word placed where the step fetches next (log 4) -/

/-- A page-table entry or a byte string placed in DRAM, with no cached copy of its line. -/
def State.plant (s : State) (pa n val : Nat) : State :=
  let l := pa / 128
  let s := s.dramWrite l 0 (linePut 0 (pa % 128) n val) (byteSpan (pa % 128) n) false
  { s with l2 := s.l2.filter fun (c : CLine) => c.line != l, cc := s.cc.filter fun (c : CLine) => c.line != l
           l1 := s.l1.filter fun (c : CLine) => c.line != l, icache := s.icache.filter fun (c : ILine) => c.line != l
           sends := s.sends.filter fun (t : Send) => t.line != l, latent := s.latent.filter fun e => e.1 != l }

/-- The word `w` of `nbits` bits, the higher bits zero, as the next word of the context in focus: frames 1 to 5 belong to
partition 0 and hold its translation directory, three table pages and one page of code at VA 0x1_0000, and the context
runs on hart 0 of cluster 0 with one lane in supervisor mode (log 4). -/
def State.withFetchWord (s : State) (nbits w : Nat) : State :=
  let s := { s with
    agenda := []
    fot := [(1, 0x80), (2, 0x80), (3, 0x80), (4, 0x80), (5, 0x80)] ++ s.fot.filter fun (e : Nat × Byte) => !(1 ≤ e.1 && e.1 ≤ 5)
    keys := { id := 0, part := some 0, gen := 0 } :: s.keys.filter fun (k : KeySlot) => k.id != 0
    parts := s.parts.setIfInBounds 0 { s.partReg 0 with tdirb := 0x10000 }
    tlb := s.tlb.filter fun (t : Tlb) => !(t.part == 0 && t.page == 1)
    walks := s.walks.filter fun (w : WalkPtr) => w.part != 0
    cur := { s.cur with
      status := .running, part := 0, cluster := 0, hart := 0, super := true, code := 0x10000, pc := 0, pslot := 0,
      creg := (s.cur.creg.setIfInBounds 1 1).setIfInBounds 22 0, lreq := 1, lmin := 1, icap := 1, target := 1, held := false,
      rpt := false, aside := none, cut := none, views := none, posted := [], pend := [], convoy := {}, evicted := [], due := none
      leaving := false } }
  let s := s.plant 0x10000 8 0x20001
  let s := s.plant 0x20000 8 0x30001
  let s := s.plant 0x30000 8 0x40001
  let s := s.plant 0x40008 8 0x5001F
  s.plant 0x50000 10 (w % 2 ^ nbits)

end Sys2Proof.Machine
end

