-- ==== Sys2Proof/Safety.lean ====
section
/-! DEFINITION. What counts as a run of the module and as a safe run, in the terms that claims use. -/

namespace Sys2Proof.Safety

open Sys2Proof.Machine

/-- `n` steps from `s` answer next states and end in `t`. -/
inductive Runs : Nat → State → State → Prop where
  | done (s : State) : Runs 0 s s
  | more {n : Nat} {s t u : State} : step s = .next t → Runs n t u → Runs (n + 1) s u

/-- A state that a run from reset reaches. -/
def Reachable (s : State) : Prop := ∃ n, Runs n State.reset s

/-- The machine neither faults nor refuses at a state. -/
def Goes (s : State) : Prop := ∃ t, step s = .next t

/-! ### What a word leaves as it was -/

/-- Everything outside the context in focus is as it was: memory, caches, tiles, other contexts, nodes, devices. -/
def OutsideKept (s t : State) : Prop := { t with cur := s.cur } = s

/-- `d` with the registers of `c`, their poison marks, its program counter, and what a word leaves behind whatever it does: which results
are pending, which old values a read below PD may still return, and which granules stand in the image alone (R151). -/
def withRegs (c d : Ctx) : Ctx :=
  { d with s := c.s, ps := c.ps, v := c.v, pv := c.pv, m := c.m, pm := c.pm, creg := c.creg, pc := c.pc, last := c.last
           pslot := c.pslot, held := c.held, fate := c.fate, rpt := c.rpt, rword := c.rword, rpop := c.rpop, redo := c.redo
           pend := c.pend, recent := c.recent, lastUse := c.lastUse, lastNew := c.lastNew, evicted := c.evicted }

/-- Of a context, nothing changed but the registers listed, their poison marks, the program counter, and what a word leaves
behind whatever it does: which results are pending, which old values a read below PD may still return, and which granules stand in the
image alone (R151). -/
structure KeptBut (regs : List PReg) (c d : Ctx) : Prop where
  scal : ∀ n, .s n ∉ regs → d.s.getD n 0 = c.s.getD n 0
  smark : ∀ (r : Reg) (half : Bool), r ≠ 0 → .s r.toNat ∉ regs → d.poisonedS half r = c.poisonedS half r
  vec : ∀ n, .v n ∉ regs → d.v.getD n 0 = c.v.getD n 0 ∧ d.pv.getD n 0 = c.pv.getD n 0
  mask : ∀ n, .m n ∉ regs → d.m.getD n 0 = c.m.getD n 0 ∧ d.pm.getD n 0 = c.pm.getD n 0
  ctl : ∀ n, .c n ∉ regs → d.cr n = c.cr n
  rest : withRegs c d = c

/-- The word retired and the context goes on after it (R169, R221); a slot of a pair leaves the program counter to the pair
(R163). -/
def WentOn (s t : State) : Prop :=
  t.cur.fate = .retired ∧ t.cur.held = false ∧
    t.cur.pc = if s.cur.views.isSome then s.cur.pc else if s.cur.rpt then s.cur.rword else s.cur.pc + 1

/-- The word retired and the context goes on at `w`. -/
def WentTo (w : BitVec 32) (t : State) : Prop := t.cur.fate = .retired ∧ t.cur.held = false ∧ t.cur.pc = w

/-- A scalar register as a destination: s0 is none (R174). -/
def scalarDst (rd : Reg) : List PReg := if rd = 0 then [] else [.s rd.toNat]

/-! ### What an access to memory leaves as it was -/

/-- A context but for what its monitor has heard (R149). -/
def unheard (c : Ctx) : Ctx := { c with heard := none }

/-- A partition's registers but for the discarded-read counter (R36) and LAUNCH (R385), which an access may move. -/
def partRest (r : Part) : Part := { r with drcnt := 0, launch := 0 }

/-- `t` with the memory system of `s`: DRAM, its keys' tags, the errors of its stored lines and the credits of its channels, caches,
translations, writes in flight and their order, the event log, the vectors raised, and what has left over root ports and links. -/
def withMemory (s t : State) : State :=
  { t with mem := s.mem, latent := s.latent, credits := s.credits, ktags := s.ktags, l1 := s.l1, cc := s.cc, gath := s.gath, l2 := s.l2
           icache := s.icache, tlb := s.tlb, walks := s.walks, sends := s.sends, counts := s.counts, clocks := s.clocks, stamps := s.stamps, parts := s.parts, log := s.log
           msix := s.msix, outbox := s.outbox, links := s.links, nd := s.nd, cur := s.cur, others := s.others }

/-- From `s` to `t` nothing changed but the memory system and what monitors have heard: no register, tile, scratch byte, node,
command, stream or device register did. -/
structure MemoryOnly (s t : State) : Prop where
  rest : withMemory s t = s
  cur : unheard t.cur = unheard s.cur
  others : t.others.map unheard = s.others.map unheard
  parts : t.parts.map partRest = s.parts.map partRest

/-- `t` with the tiles' contents and the scratch of `s`. -/
def withWindows (s t : State) : State := { t with tmem := s.tmem, l2s := s.l2s }

/-- The context in focus kept every register but those listed; what its monitor heard may differ. -/
def ContextKept (regs : List PReg) (s t : State) : Prop := KeptBut regs (unheard s.cur) (unheard t.cur)

end Sys2Proof.Safety
end

