-- ==== Sys2Proof/Certificates/Slice0/Obligations.lean ====
section
/-! DEFINITION. The statements for the provers. Each says what the specification's rules say of an instruction, of an event or of
the whole machine; helper notions stand in `Sys2Proof.Claims`. -/

namespace Sys2Proof.Claims

open Sys2Proof.Machine Sys2Proof.Safety

/-- No register of the context carries a poison mark (R363). -/
def Unmarked (c : Ctx) : Prop := c.ps = 0 ∧ (∀ n, c.pv.getD n 0 = 0) ∧ ∀ n, c.pm.getD n 0 = 0

/-- A word completes with the scalar result `x` in `rd` and nothing else changed: no other register, no flag, nothing outside
the context. -/
def Gives (i : Instr) (s : State) (rd : Reg) (x : Word) : Prop :=
  ∃ t, exec i s = .next t ∧ t.cur.regVal (.s rd.toNat) = (if rd = 0 then 0 else x.toNat) ∧
    KeptBut (scalarDst rd) s.cur t.cur ∧ OutsideKept s t ∧ WentOn s t

/-- The same with flags ORed into ctl.fflags (R197). -/
def GivesFlags (i : Instr) (s : State) (rd : Reg) (x : Nat) (fl : Flags) : Prop :=
  ∃ t, exec i s = .next t ∧ t.cur.regVal (.s rd.toNat) = (if rd = 0 then 0 else x % 2 ^ 64) ∧
    t.cur.cr 14 = s.cur.cr 14 ||| fl.setWidth 64 ∧
    KeptBut (.c 14 :: scalarDst rd) s.cur t.cur ∧ OutsideKept s t ∧ WentOn s t

/-- A variable-latency word completes (R166, R168): with SA = 0 its result is in `rd` before the next word, with a tag it is
pending under the tag and no register has changed. -/
def GivesVar (i : Instr) (s : State) (rd : Reg) (x : Nat) (fl : Flags) (ops : List Word) : Prop :=
  ∃ t, exec i s = .next t ∧ OutsideKept s t ∧ WentOn s t ∧
    if s.cur.ctl.sa = 0 then
      t.cur.regVal (.s rd.toNat) = (if rd = 0 then 0 else x % 2 ^ 64) ∧ t.cur.cr 14 = s.cur.cr 14 ||| fl.setWidth 64 ∧
        KeptBut (.c 14 :: scalarDst rd) s.cur t.cur
    else
      t.cur.pend = s.cur.pend ++ [{ tag := s.cur.ctl.sa.toNat, word := s.cur.pc, slot := s.cur.pslot, done := false,
                                    vals := [{ reg := .s rd.toNat, val := x }], flags := fl, ops := ops,
                                    pass := s.cur.pass, reset := (s.cur.redo.map (·.reset)).getD false }] ∧
        KeptBut [] s.cur t.cur

/-- What the four divisions write (R214). -/
def Divides (s : State) (rd a b : Reg) : Prop :=
  let x := s.opS 0 a
  let y := s.opS 1 b
  let corner := x.toInt = -2 ^ 63 ∧ y.toInt = -1
  GivesVar (.div rd a b) s rd
    (if y = 0 then BitVec.allOnes 64 else if corner then x else BitVec.ofInt 64 (x.toInt.tdiv y.toInt)).toNat 0 [x, y] ∧
  GivesVar (.divu rd a b) s rd (if y = 0 then BitVec.allOnes 64 else BitVec.ofNat 64 (x.toNat / y.toNat)).toNat 0 [x, y] ∧
  GivesVar (.rem rd a b) s rd
    (if y = 0 then x else if corner then 0 else BitVec.ofInt 64 (x.toInt.tmod y.toInt)).toNat 0 [x, y] ∧
  GivesVar (.remu rd a b) s rd (if y = 0 then x else BitVec.ofNat 64 (x.toNat % y.toNat)).toNat 0 [x, y]

end Sys2Proof.Claims

open Sys2Proof Sys2Proof.Machine Sys2Proof.Safety Sys2Proof.Claims

/-! ### Scalar instructions -/

/-- R213: the result of every scalar register instruction, for every operand, s0 as a destination included (R214 for the divisions);
no other register, no flag and nothing outside the context changes. Its operands are the words that it reads (R163, R167). -/
def Obligations.ScalarRegisterResults : Prop :=
  ∀ (s : State) (rd a b c : Reg),
    (s.badS false [a, b] = false →
      let x := s.opS 0 a
      let y := s.opS 1 b
      Gives (.add rd a b) s rd (x + y) ∧ Gives (.sub rd a b) s rd (x - y) ∧ Gives (.mul rd a b) s rd (x * y) ∧
      Gives (.mulh rd a b) s rd ((x.signExtend 128 * y.signExtend 128).extractLsb' 64 64) ∧
      Gives (.mulhu rd a b) s rd ((x.setWidth 128 * y.setWidth 128).extractLsb' 64 64) ∧
      Gives (.and rd a b) s rd (x &&& y) ∧ Gives (.or rd a b) s rd (x ||| y) ∧ Gives (.xor rd a b) s rd (x ^^^ y) ∧
      Gives (.shl rd a b) s rd (x <<< (y.extractLsb' 0 6).toNat) ∧
      Gives (.shr rd a b) s rd (x >>> (y.extractLsb' 0 6).toNat) ∧
      Gives (.sar rd a b) s rd (x.sshiftRight (y.extractLsb' 0 6).toNat) ∧
      Gives (.slt rd a b) s rd (if x.toInt < y.toInt then 1 else 0) ∧
      Gives (.sltu rd a b) s rd (if x.toNat < y.toNat then 1 else 0) ∧
      Gives (.min rd a b) s rd (if x.toInt ≤ y.toInt then x else y) ∧
      Gives (.max rd a b) s rd (if x.toInt ≤ y.toInt then y else x) ∧
      Gives (.minu rd a b) s rd (if x.toNat ≤ y.toNat then x else y) ∧
      Gives (.maxu rd a b) s rd (if x.toNat ≤ y.toNat then y else x) ∧ Divides s rd a b) ∧
    (s.badS false [a] = false →
      let x := s.opS 0 a
      Gives (.clz rd a) s rd (BitVec.ofNat 64 ((List.range 64).takeWhile fun k => !x.getLsbD (63 - k)).length) ∧
      Gives (.ctz rd a) s rd (BitVec.ofNat 64 ((List.range 64).takeWhile fun k => !x.getLsbD k).length) ∧
      Gives (.popc rd a) s rd (BitVec.ofNat 64 ((List.range 64).countP fun k => x.getLsbD k)) ∧
      Gives (.mov rd a) s rd x) ∧
    (s.badS false [a, b, c] = false →
      Gives (.sel rd a b c) s rd (if s.opS 2 c ≠ 0 then s.opS 0 a else s.opS 1 b))

/-- R214: quotients and remainders truncate toward zero, division by zero gives all ones and the dividend, and no case raises
a flag or a fault. -/
def Obligations.DivisionResults : Prop :=
  ∀ (s : State) (rd a b : Reg), s.badS false [a, b] = false → Divides s rd a b

/-- R215: the result of every scalar instruction with an immediate within the limit of its row. -/
def Obligations.ScalarImmediateResults : Prop :=
  ∀ (s : State) (rd a : Reg) (imm : BitVec 32) (n : BitVec 6) (w : BitVec 7) (pos : BitVec 6) (len : BitVec 7),
    let i := imm.signExtend 64
    (s.badS false [a] = false →
      let x := s.opS 0 a
      Gives (.addi rd a imm) s rd (x + i) ∧ Gives (.andi rd a imm) s rd (x &&& i) ∧ Gives (.ori rd a imm) s rd (x ||| i) ∧
      Gives (.xori rd a imm) s rd (x ^^^ i) ∧ Gives (.shli rd a n) s rd (x <<< n.toNat) ∧
      Gives (.shri rd a n) s rd (x >>> n.toNat) ∧ Gives (.sari rd a n) s rd (x.sshiftRight n.toNat) ∧
      Gives (.slti rd a imm) s rd (if x.toInt < i.toInt then 1 else 0) ∧
      (1 ≤ w.toNat ∧ w.toNat ≤ 64 →
        Gives (.sext rd a w) s rd (((x.extractLsb' 0 w.toNat : BitVec w.toNat)).signExtend 64) ∧
        Gives (.zext rd a w) s rd (((x.extractLsb' 0 w.toNat : BitVec w.toNat)).setWidth 64)) ∧
      (1 ≤ len.toNat ∧ pos.toNat + len.toNat ≤ 64 →
        Gives (.bfx rd a pos len) s rd (((x.extractLsb' pos.toNat len.toNat : BitVec len.toNat)).setWidth 64))) ∧
    (s.badS false [rd, a] = false → 1 ≤ len.toNat ∧ pos.toNat + len.toNat ≤ 64 →
      ∃ x, Gives (.bfi rd a pos len) s rd x ∧ ∀ k < 64, x.getLsbD k =
        if pos.toNat ≤ k ∧ k < pos.toNat + len.toNat then (s.opS 1 a).getLsbD (k - pos.toNat) else (s.opS 0 rd).getLsbD k) ∧
    Gives (.li rd imm) s rd i ∧
    (s.badS false [rd] = false → Gives (.liHi rd imm) s rd (imm ++ (s.opS 0 rd).extractLsb' 0 32))

/-- R218: the rounded FP32 instructions write the correctly rounded result and OR their flags into ctl.fflags. -/
def Obligations.ScalarFloatResults : Prop :=
  ∀ (s : State) (rd a b c : Reg) (rm : Rm),
    let m := if rm = .dyn then s.cur.fpm else rm
    let x := valOf (s.opS 0 a)
    let y := valOf (s.opS 1 b)
    let z := valOf (s.opS 2 c)
    let of (i : Instr) (r : Nat × Flags) : Prop := GivesFlags i s rd r.1 r.2
    (s.badS true [a, b] = false →
      of (.fadd rd a b rm) (addFp fmtF32 m x y) ∧ of (.fsub rd a b rm) (addFp fmtF32 m x y.neg) ∧
      of (.fmul rd a b rm) (mulFp fmtF32 m x y) ∧
      GivesVar (.fdiv rd a b rm) s rd (divFp fmtF32 m x y).1 (divFp fmtF32 m x y).2 [s.opS 0 a, s.opS 1 b]) ∧
    (s.badS true [a] = false → GivesVar (.fsqrt rd a rm) s rd (sqrtFp fmtF32 m x).1 (sqrtFp fmtF32 m x).2 [s.opS 0 a]) ∧
    (s.badS true [a, b, c] = false → of (.ffma rd a b c rm) (fmaFp fmtF32 m x y z))

/-- R219, R220: minimum, maximum, comparisons, class, sign and the conversions of scalar FP32. No comparison raises a flag. -/
def Obligations.ScalarFloatOtherResults : Prop :=
  ∀ (s : State) (rd a b : Reg) (rm : Rm),
    let m := if rm = .dyn then s.cur.fpm else rm
    let p := f32Of (s.opS 0 a)
    let q := f32Of (s.opS 1 b)
    let x := decodeFp fmtF32 p
    let y := decodeFp fmtF32 q
    let plain (i : Instr) (r : Nat) : Prop := GivesFlags i s rd r 0
    let of (i : Instr) (r : Nat × Flags) : Prop := GivesFlags i s rd r.1 r.2
    let num (b : Bool) : Nat := if b then 1 else 0
    let one (b : Prop) [Decidable b] : Nat := if b then 1 else 0
    (s.badS true [a, b] = false →
      plain (.fmin rd a b) (if x = .nan ∨ y = .nan then 0x7FC00000 else if belowFp x y then p else q) ∧
      plain (.fmax rd a b) (if x = .nan ∨ y = .nan then 0x7FC00000 else if belowFp x y then q else p) ∧
      plain (.fcmpEq rd a b) (num (eqFp x y)) ∧ plain (.fcmpLt rd a b) (num (ltFp x y)) ∧
      plain (.fcmpLe rd a b) (num (ltFp x y || eqFp x y)) ∧ plain (.fcmpUo rd a b) (one (x = .nan ∨ y = .nan))) ∧
    (s.badS true [a] = false →
      plain (.fclass rd a) (classFp p) ∧ plain (.fneg rd a) (p ^^^ 2 ^ 31) ∧ plain (.fabs rd a) (p % 2 ^ 31) ∧
      (let r := cvtToInt m 32 (-(2 ^ 31)) (2 ^ 31 - 1) x
       GivesFlags (.fcvtI32F32 rd a rm) s rd ((BitVec.ofNat 32 r.1).signExtend 64).toNat r.2) ∧
      of (.fcvtN32F32 rd a rm) (cvtToInt m 32 0 (2 ^ 32 - 1) x) ∧
      of (.fcvtI64F32 rd a rm) (cvtToInt m 64 (-(2 ^ 63)) (2 ^ 63 - 1) x) ∧
      of (.fcvtF32I32 rd a rm) (roundInt fmtF32 m false ((s.opS 0 a).setWidth 32).toInt 0) ∧
      of (.fcvtF32N32 rd a rm) (roundInt fmtF32 m false ((s.opS 0 a).setWidth 32).toNat 0)) ∧
    (s.badS false [a] = false → of (.fcvtF32I64 rd a rm) (roundInt fmtF32 m false (s.opS 0 a).toInt 0))

/-- R216, R188: a slot of a pair has the effect of the full instruction of the same function; its FP32 functions round in the
mode of ctl.fpm, its immediates are IMM12 sign-extended. On
operands that are not poisoned every slot form with a scalar destination completes, and only its destination and ctl.fflags may
differ (R163, R187).
That both slots read what stood before the word is R163; the order of two slots that stop is the model's (log 28). A vector slot
completes unless a pre-emption falls within it (R152). -/
def Obligations.PairSlotResults : Prop :=
  (∀ (s : State) (rd a b : Reg) (imm : BitVec 12) (n : BitVec 6),
    exec (.pairAddi rd a imm) s = exec (.addi rd a (imm.signExtend 32)) s ∧
    exec (.pairAndi rd a imm) s = exec (.andi rd a (imm.signExtend 32)) s ∧
    exec (.pairOri rd a imm) s = exec (.ori rd a (imm.signExtend 32)) s ∧
    exec (.pairXori rd a imm) s = exec (.xori rd a (imm.signExtend 32)) s ∧
    exec (.pairSlti rd a imm) s = exec (.slti rd a (imm.signExtend 32)) s ∧
    exec (.pairShli rd a n) s = exec (.shli rd a n) s ∧ exec (.pairShri rd a n) s = exec (.shri rd a n) s ∧
    exec (.pairSari rd a n) s = exec (.sari rd a n) s ∧ exec (.pairLi rd imm) s = exec (.li rd (imm.signExtend 32)) s ∧
    (∀ p ∈ [((0 : Reg), Instr.add rd a b), (1, .sub rd a b), (2, .mul rd a b), (3, .mulh rd a b), (4, .mulhu rd a b),
        (9, .and rd a b), (10, .or rd a b), (11, .xor rd a b), (12, .shl rd a b), (13, .shr rd a b), (14, .sar rd a b),
        (15, .slt rd a b), (16, .sltu rd a b), (17, .min rd a b), (18, .max rd a b), (19, .minu rd a b), (20, .maxu rd a b),
        (21, .clz rd a), (22, .ctz rd a), (23, .popc rd a), (24, .mov rd a)],
      exec (.pairScalarRR p.1 rd a b) s = exec p.2 s) ∧
    (∀ p ∈ [((0 : Reg), Instr.fadd rd a b .dyn), (1, .fsub rd a b .dyn), (2, .fmul rd a b .dyn), (6, .fmin rd a b),
        (7, .fmax rd a b), (13, .fneg rd a), (14, .fabs rd a)],
      exec (.pairFpRR p.1 rd a b) s = exec p.2 s) ∧
    (let f : TR := { rd := rd, rs1 := a, rs2 := b, mp := (s.cur.cr 3).getLsbD 8, tp := (s.cur.cr 3).getLsbD 9
                     ty := sewTy (bits (s.cur.cr 3) 0 3) }
     ∀ p ∈ [((0 : Reg), Instr.vadd f), (1, .vsub f), (2, .vmul f), (3, .vmulh f), (4, .vmin f), (5, .vmax f), (6, .vand f),
        (7, .vor f), (8, .vxor f), (9, .vshl f), (10, .vshr f), (11, .vsar f)],
      exec (.pairVectorRR p.1 rd a b) s = exec p.2 s)) ∧
  ∀ (s : State) (rd a b fn : Reg) (imm : BitVec 12) (n : BitVec 6), s.badS false [a, b] = false →
    (fn.toNat < 25 ∧ ¬(5 ≤ fn.toNat ∧ fn.toNat ≤ 8) →
      ∃ t, exec (.pairScalarRR fn rd a b) s = .next t ∧ KeptBut (scalarDst rd) s.cur t.cur ∧ OutsideKept s t ∧ WentOn s t) ∧
    (fn.toNat ∈ [0, 1, 2, 6, 7, 13, 14] →
      ∃ t, exec (.pairFpRR fn rd a b) s = .next t ∧ KeptBut (.c 14 :: scalarDst rd) s.cur t.cur ∧ OutsideKept s t ∧ WentOn s t) ∧
    (fn.toNat < 12 → Unmarked s.cur → s.cur.cut = none →
      ∃ t, exec (.pairVectorRR fn rd a b) s = .next t ∧ KeptBut [.v (s.cur.vslot rd.toNat), .c 2] s.cur t.cur ∧ OutsideKept s t ∧
        WentOn s t) ∧
    Gives (.pairAddi rd a imm) s rd (s.opS 0 a + imm.signExtend 64) ∧
    Gives (.pairAndi rd a imm) s rd (s.opS 0 a &&& imm.signExtend 64) ∧
    Gives (.pairOri rd a imm) s rd (s.opS 0 a ||| imm.signExtend 64) ∧
    Gives (.pairXori rd a imm) s rd (s.opS 0 a ^^^ imm.signExtend 64) ∧
    Gives (.pairSlti rd a imm) s rd (if (s.opS 0 a).toInt < (imm.signExtend 64).toInt then 1 else 0) ∧
    Gives (.pairShli rd a n) s rd (s.opS 0 a <<< n.toNat) ∧ Gives (.pairShri rd a n) s rd (s.opS 0 a >>> n.toNat) ∧
    Gives (.pairSari rd a n) s rd ((s.opS 0 a).sshiftRight n.toNat) ∧ Gives (.pairLi rd imm) s rd (imm.signExtend 64)

/-! ### Branches, loops and the program counter -/

namespace Sys2Proof.Claims

/-- A word retires, goes on at `w` and changes no register and nothing outside the context. -/
def JumpsTo (i : Instr) (s : State) (w : BitVec 32) : Prop :=
  ∃ t, exec i s = .next t ∧ WentTo w t ∧ KeptBut [] s.cur t.cur ∧ OutsideKept s t

/-- A word retires and changes nothing but the program counter. -/
def OnlyAdvances (i : Instr) (s : State) : Prop :=
  ∃ t, exec i s = .next t ∧ WentOn s t ∧ KeptBut [] s.cur t.cur ∧ OutsideKept s t

/-- The registers that the loop instructions write (R227): trip, pass, stg and m8 to m15. -/
def loopRegs : List PReg := [.c 4, .c 5, .c 6] ++ (List.range 8).map fun k => .m (8 + k)

/-- The stage masks of R226 for a loop's trip, pass and stg stand in m8 to m15. -/
def StageMasks (c : Ctx) (trip pass stg : Nat) : Prop :=
  ∀ k < 8, c.m.getD (8 + k) 0 = if k < stg ∧ k ≤ pass ∧ pass - k < trip then BitVec.allOnes 8192 else 0

end Sys2Proof.Claims

/-- R222: where each branch and jump goes, and the link of `jal`; a branch never faults on operands that are not poisoned. -/
def Obligations.BranchesAndJumps : Prop :=
  ∀ (s : State) (a b rd : Reg) (off : BitVec 32), s.cur.views = none → s.cur.rpt = false →
    let goes (taken : Bool) : BitVec 32 := if taken then s.cur.pc + off else s.cur.pc + 1
    (s.badS false [a, b] = false →
      let x := s.opS 0 a
      let y := s.opS 1 b
      JumpsTo (.beq a b off) s (goes (decide (x = y))) ∧ JumpsTo (.bne a b off) s (goes (decide (x ≠ y))) ∧
      JumpsTo (.blt a b off) s (goes (decide (x.toInt < y.toInt))) ∧ JumpsTo (.bge a b off) s (goes (decide (y.toInt ≤ x.toInt))) ∧
      JumpsTo (.bltu a b off) s (goes (decide (x.toNat < y.toNat))) ∧
      JumpsTo (.bgeu a b off) s (goes (decide (y.toNat ≤ x.toNat)))) ∧
    JumpsTo (.jmp off) s (s.cur.pc + off) ∧
    (s.badS false [a] = false → JumpsTo (.ret a) s ((s.opS 0 a).setWidth 32)) ∧
    (∃ t, exec (.jal rd off) s = .next t ∧ WentTo (s.cur.pc + off) t ∧ KeptBut (scalarDst rd) s.cur t.cur ∧ OutsideKept s t ∧
      t.cur.regVal (.s rd.toNat) = if rd = 0 then 0 else (s.cur.pc + 1).toNat)

/-- R226, R227: `loop.init` sets trip, pass, stg and the stage masks; `loop` counts a pass and goes back while a pass is left,
with the masks of the new pass, and otherwise falls through and leaves the masks. Trip, pass and stg are read as the word reads
them (R167). -/
def Obligations.LoopInstructions : Prop :=
  ∀ (s : State), s.cur.views = none → s.cur.rpt = false →
    (∀ (a : Reg) (stages : BitVec 4), s.badS false [a] = false →
      let trip := min (s.opS 0 a).toNat (2 ^ 48 - 1)
      ∃ t, exec (.loopInit a stages) s = .next t ∧ WentOn s t ∧ KeptBut loopRegs s.cur t.cur ∧ OutsideKept s t ∧
        (t.cur.cr 4).toNat = trip ∧ t.cur.cr 5 = 0 ∧ (t.cur.cr 6).toNat = stages.toNat ∧ StageMasks t.cur trip 0 stages.toNat) ∧
    (∀ (off : BitVec 32),
      let trip := (s.opC 0 4).toNat % 2 ^ 48
      let stg := (s.opC 2 6).toNat % 16
      let pass := ((s.opC 1 5).toNat + 1) % 2 ^ 49
      let passes := if trip = 0 then 1 else trip + max stg 1 - 1
      ∃ t, exec (.loop off) s = .next t ∧ OutsideKept s t ∧ (t.cur.cr 5).toNat = pass ∧
        if pass < passes then
          WentTo (s.cur.pc + off) t ∧ StageMasks t.cur trip pass stg ∧ KeptBut (loopRegs.drop 1) s.cur t.cur ∧
            t.cur.cr 4 = s.cur.cr 4 ∧ t.cur.cr 6 = s.cur.cr 6
        else WentTo (s.cur.pc + 1) t ∧ KeptBut [.c 5] s.cur t.cur)

/-- R225: the name v(32 + k) selects the rotating slot (k - PASS) mod 32, and v0 to v31 do not rotate. For a producer that runs again
after a fault at its visibility point, PASS is the one of its first issue (R228, R169). -/
def Obligations.RotatingNames : Prop :=
  ∀ (c : Ctx) (k : Nat), k < 32 →
    let rotates (pass : Nat) : Prop := 32 ≤ c.vslot (32 + k) ∧ c.vslot (32 + k) < 64 ∧ (c.vslot (32 + k) + pass) % 32 = k
    c.vslot k = k ∧ (c.redo = none → rotates ((c.cr 5).toNat % 2 ^ 49)) ∧ ∀ r, c.redo = some r → rotates r.pass

/-! ### Scalar loads and stores -/

namespace Sys2Proof.Claims

/-- The scope at which an access performs (R129): an access at .s in a capped partition performs at .v. -/
def scopeOf (s : State) (sc : Scope) : Scope := if sc = .s ∧ bits (s.cur.cr 21) 0 3 = 3 then .v else sc

/-- The `n` bytes at an address lie in one block of a tile of the local window that the context holds (R25, R27, R50): an access of a
hart to them has its place. -/
def OwnTile (s : State) (va n : Nat) : Prop :=
  let o := (s.tile s.cur.cluster ((va - windowBase) / 65536)).owner
  windowBase ≤ va ∧ va < windowBase + 128 * 65536 ∧ va % 128 + n ≤ 128 ∧ tileKind o = 1 ∧ tileNode o = s.cur.slot

/-- The address in the tile space of an address of the local window (R25). -/
def winAddr (s : State) (va : Nat) : Nat :=
  tileAddr s.cur.cluster ((va - windowBase) / 65536) ((va - windowBase) % 65536)

/-- The same place, in a block that holds no poison (R75). -/
def CleanTile (s : State) (va n : Nat) : Prop := OwnTile s va n ∧ s.tmem.poisoned (winAddr s va / 128) = false

/-- The register's value from the bytes that a load read (R253). -/
def loadValue (z : LdSize) (x : Nat) : Word :=
  match z with
  | .bu | .hu | .wu => BitVec.ofNat 64 x
  | .b => (BitVec.ofNat 8 x).signExtend 64
  | .h => (BitVec.ofNat 16 x).signExtend 64
  | .w => (BitVec.ofNat 32 x).signExtend 64
  | .d => BitVec.ofNat 64 x

/-- A load in a tile that the context holds completes: its bytes are the tile's. -/
def LoadsTile (i : Instr) (addr : Word) (z : LdSize) (rd : Reg) (s : State) : Prop :=
  let n := LdSize.bytes z
  CleanTile s addr.toNat n → s.tmem.wf →
    ∃ t, exec i s = .next t ∧ WentOn s t ∧ t.tmem = s.tmem ∧
      (s.cur.ctl.sa = 0 →
        t.cur.regVal (.s rd.toNat) = if rd = 0 then 0 else (loadValue z (s.tmem.get (winAddr s addr.toNat) n)).toNat)

/-- A store in a tile that the context holds completes: its bytes are there, and no other byte of a tile has changed. -/
def StoresTile (i : Instr) (addr x : Word) (z : StSize) (s : State) : Prop :=
  let n := StSize.bytes z
  OwnTile s addr.toNat n → s.tmem.wf →
    let A := winAddr s addr.toNat
    ∃ t, exec i s = .next t ∧ WentOn s t ∧ t.l2s = s.l2s ∧
      ∀ a, t.tmem.byte a = if A ≤ a ∧ a < A + n then BitVec.ofNat 8 (x.toNat / 2 ^ (8 * (a - A))) else s.tmem.byte a

/-- A load of the `n` bytes at `addr` (R253): where every piece has a place and no line read is poisoned, the bytes read there,
extended, become the result in `rd`; ctl.scope may show a demotion. -/
def LoadsFrom (i : Instr) (addr : Word) (z : LdSize) (rd : Reg) (ord : MemOrd) (sc : Scope) (ops : List Word) (s : State) : Prop :=
  ∀ ps, s.locateAll true .read (pieces addr.toNat (LdSize.bytes z)) = .ok ps →
    let sc' := if ord = .acq then scopeOf s sc else .h
    let u := (if ord = .acq then (s.demote sc).2 else s).useAll .read ps |>.freshenAll sc' ps
    let r := (u.readPieces s.cur.cluster s.cur.hart false ps).1
    r.2 = none →
    let v : Word := loadValue z r.1
    ∃ t, exec i s = .next t ∧ WentOn s t ∧ MemoryOnly s { t with cur := s.cur } ∧
      if s.cur.ctl.sa = 0 then
        t.cur.regVal (.s rd.toNat) = (if rd = 0 then 0 else v.toNat) ∧
          ContextKept ((if ord = .acq then [.c 21] else []) ++ scalarDst rd) s t
      else
        t.cur.pend = s.cur.pend ++ [{ tag := s.cur.ctl.sa.toNat, word := s.cur.pc, slot := s.cur.pslot, done := false,
                                      vals := [{ reg := .s rd.toNat, val := v.toNat }], ops := ops,
                                      pass := s.cur.pass, reset := (s.cur.redo.map (·.reset)).getD false }] ∧
          ContextKept (if ord = .acq then [.c 21] else []) s t

/-- The bytes that a store of `x` writes to tiles (true) and to the L2 scratch (false), low bytes first. -/
def stored (o : Nat) : Nat → List (Nat × Nat × Loc) → List ((Bool × Nat) × Byte)
  | _, [] => []
  | x, (_, n, loc) :: r =>
    (match loc with
      | .tile t off => (List.range n).map fun k => ((true, tileAddr o t off + k), BitVec.ofNat 8 (x / 2 ^ (8 * k)))
      | .scratch a => (List.range n).map fun k => ((false, a + k), BitVec.ofNat 8 (x / 2 ^ (8 * k)))
      | .page _ _ => []) ++ stored o (x / 2 ^ (8 * n)) r

/-- The byte that a store leaves at an address: the one stored there, else the one before. -/
def after (w : List ((Bool × Nat) × Byte)) (k : Bool × Nat) (old : Byte) : Byte :=
  match w.reverse.find? fun e => e.1 == k with
  | some e => e.2
  | none => old

/-- A store of the bytes of `d` under the mask in one line of a page, from a state `u` with the translations used, leaves everything
as a load of that line would leave it (`State.lineRead`), but for those bytes: the line in the L1, or for a vector store in the cluster
cache, holds them and in every other byte what the load reads, and no other line of a cache or of memory and no other write differs
(R41-R43). To a page that the caches do not hold, one write of exactly those bytes leaves the cluster, and nothing else changes (R103,
R108). Gathered lines of the cluster may go (R48), and a vector store moves on the translations that its stream register holds (R32). -/
def StoredLine (s u t : State) (vec : Bool) (l : Leaf) (line : Nat) (d : LineVal) (mask : ByteMask) : Prop :=
  let o := s.cur.cluster
  let h := s.cur.hart
  let r := u.lineRead o h vec l line
  let view (a : State) : State := { a with cur := s.cur, tlb := if vec then s.tlb else a.tlb }
  if l.ca = 0 then
    ∃ c, CLine.isAt (if vec then o else l1Owner o h) line c ∧
      (∀ k < 128, lineGet c.data k 1 = lineGet (if mask.getLsbD k then d else r.1.1) k 1) ∧
      (∀ k < 128, mask.getLsbD k = true → c.dirty.getLsbD k = true) ∧
      if vec then
        view t = { view r.2 with cc := c :: cacheDrop r.2.cc o line, gath := t.gath } ∧ ∀ g ∈ t.gath, g.owner ≠ o → g ∈ r.2.gath
      else view t = { view r.2 with l1 := c :: cacheDrop r.2.l1 (l1Owner o h) line }
  else
    ∃ w : Send, w.line = line ∧ w.key = l.key ∧ w.mask = mask ∧ w.chan = (l.ca == 2) ∧
      (∀ k < 128, mask.getLsbD k = true → lineGet w.data k 1 = lineGet d k 1) ∧
      view t = { view u with sends := u.sends ++ [w], counts := t.counts, clocks := t.clocks }

/-- A store of the low bytes of `x` at `addr` (R253): where every piece has a place the word retires; no register changes but
ctl.scope at a demotion; every tile and scratch byte outside the stored ones is as it was, and the stored ones hold `x`; in a line of
memory, the stored bytes alone change, in the scalar L1 or as one write on its way home. -/
def StoresTo (i : Instr) (addr x : Word) (z : StSize) (ord : MemOrd) (s : State) : Prop :=
  ∀ ps, s.locateAll true .write (pieces addr.toNat (StSize.bytes z)) = .ok ps → s.tmem.wf → s.l2s.wf →
    ∃ t, exec i s = .next t ∧ WentOn s t ∧ MemoryOnly s (withWindows s { t with cur := s.cur }) ∧
      ContextKept (if ord = .rel then [.c 21] else []) s t ∧
      (∀ a, t.tmem.byte a = after (stored s.cur.cluster x.toNat ps) (true, a) (s.tmem.byte a)) ∧
      (∀ a, t.l2s.byte a = after (stored s.cur.cluster x.toNat ps) (false, a) (s.l2s.byte a)) ∧
      ∀ a n l pa, ps = [(a, n, .page l pa)] → ord = .plain → region pa = .fast ∨ region pa = .cap →
        StoredLine s (s.useAll .write ps) t false l (pa / 128) (linePut 0 (pa % 128) n x.toNat) (byteSpan (pa % 128) n)

end Sys2Proof.Claims

/-- R253: the loads, in full words and in pair slots: from every place that a translation or a window gives, and in particular from a
tile that the context holds (R25, R50), where they complete with the tile's bytes. -/
def Obligations.ScalarLoads : Prop :=
  ∀ (s : State) (rd a : Reg) (z : LdSize) (ord : MemOrd) (sc : Scope) (disp : BitVec 23) (imm : BitVec 12),
    s.badS false [a] = false →
      LoadsFrom (.ld rd a z ord sc disp) (s.opS 0 a + disp.signExtend 64) z rd ord sc [s.opS 0 a] s ∧
      LoadsFrom (.pairLd z rd a imm) (s.opS 0 a + imm.signExtend 64) z rd .plain .h [s.opS 0 a] s ∧
      LoadsTile (.ld rd a z ord sc disp) (s.opS 0 a + disp.signExtend 64) z rd s ∧
      LoadsTile (.pairLd z rd a imm) (s.opS 0 a + imm.signExtend 64) z rd s

/-- R253: the stores, in full words and in pair slots, and all that they leave unchanged; in a tile that the context holds (R25, R50)
they complete with their bytes there. -/
def Obligations.ScalarStores : Prop :=
  ∀ (s : State) (a d : Reg) (z : StSize) (ord : MemOrd) (sc : Scope) (disp : BitVec 23) (imm : BitVec 12),
    s.badS false [a] = false → s.badS (StSize.bytes z ≤ 4) [d] = false →
      StoresTo (.st a d z ord sc disp) (s.opS 0 a + disp.signExtend 64) (s.opS 1 d) z ord s ∧
      StoresTo (.pairSt z d a imm) (s.opS 0 a + imm.signExtend 64) (s.opS 1 d) z .plain s ∧
      StoresTile (.st a d z ord sc disp) (s.opS 0 a + disp.signExtend 64) (s.opS 1 d) z s ∧
      StoresTile (.pairSt z d a imm) (s.opS 0 a + imm.signExtend 64) (s.opS 1 d) z s

/-! ### Vector instructions -/

namespace Sys2Proof.Claims

/-- The slots of the group of `g` registers that begins at `rd` (R201, R228). -/
def groupRegs (c : Ctx) (rd : Reg) (g : Nat) : List PReg := (List.range g).map fun r => .v (c.vslot ((rd.toNat + r) % 64))

/-- Element `i` at width `w` of a group of registers of a context (R201). -/
def groupElem (c : Ctx) (d : Ctx) (rd : Reg) (w i : Nat) : Nat :=
  elemGet c.lanes w (d.v.getD (c.vslot ((rd.toNat + i / c.cap w) % 64)) 0) (i % c.cap w)

/-- What R236 leaves in element `i` of a destination: the tail policy from `n` up, the old value below estart and under the mask
with mu, zero under the mask with mz, else the operation's result. -/
def elemAfter (c : Ctx) (rd : Reg) (w n : Nat) (mp tp : Bool) (mask : Nat → Bool) (op : Nat → Nat) (i : Nat) : Nat :=
  let old := groupElem c c rd w i
  if n ≤ i then (if tp then old else 0)
  else if i < c.estart then old
  else if mask i then op i % 2 ^ w
  else if mp then 0 else old

/-- The OR of the flags of the active elements (R197, R236). -/
def elemFlags (c : Ctx) (n : Nat) (mask : Nat → Bool) (fl : Nat → Flags) : Flags :=
  ((List.range n).filter fun i => c.estart ≤ i && mask i).foldr (fun i a => fl i ||| a) 0

/-- A pre-emption stopped the word before element `k` (R152, R239): it is the next word again, and estart says where it goes on. -/
def StoppedAt (k : Nat) (s t : State) : Prop := t.cur.fate = .stopped ∧ t.cur.pc = s.cur.pc ∧ t.cur.cr 2 = BitVec.ofNat 64 k

/-- A fixed-latency element instruction runs its loop as R236 says, with a group of `g` registers of width `w` as its destination. Where a
pre-emption falls within it (R152), at a multiple of `unit` elements, it stops there: the elements before that boundary are done, with
their flags, and the others are as they were (R239); `unit` 0 stands for an instruction that runs to its end. Element `k` reads the places `uses k`: the
word does not stop where what it has written would change what a later element reads (R236). -/
def VecRuns (i : Instr) (s : State) (rd : Reg) (w n g unit : Nat) (mp tp : Bool) (uses : Nat → List VPlace) (mask : Nat → Bool)
    (op : Nat → Nat) (fl : Nat → Flags) (more : List PReg) : Prop :=
  Unmarked s.cur →
    match s.cur.splitAt unit n rd w uses with
    | none =>
      ∃ t, exec i s = .next t ∧ WentOn s t ∧ OutsideKept s t ∧
        KeptBut (groupRegs s.cur rd g ++ [.c 14, .c 2] ++ more) s.cur t.cur ∧ t.cur.cr 2 = 0 ∧
        t.cur.cr 14 = s.cur.cr 14 ||| (elemFlags s.cur n mask fl).setWidth 64 ∧
        ∀ k < g * s.cur.cap w, groupElem s.cur t.cur rd w k = elemAfter s.cur rd w n mp tp mask op k
    | some b =>
      ∃ t, exec i s = .next t ∧ StoppedAt b s t ∧ OutsideKept s t ∧
        KeptBut (groupRegs s.cur rd g ++ [.c 14, .c 2]) s.cur t.cur ∧
        t.cur.cr 14 = s.cur.cr 14 ||| (elemFlags s.cur b mask fl).setWidth 64 ∧
        ∀ k < g * s.cur.cap w, groupElem s.cur t.cur rd w k =
          if b ≤ k then groupElem s.cur s.cur rd w k else elemAfter s.cur rd w n mp tp mask op k

/-- The same with the zero-length retirement of R236: at N = 0 nothing but the program counter changes. -/
def VecResult (i : Instr) (s : State) (rd : Reg) (w n g unit : Nat) (mp tp : Bool) (uses : Nat → List VPlace) (mask : Nat → Bool)
    (op : Nat → Nat) (fl : Nat → Flags) (more : List PReg) : Prop :=
  (n = 0 → OnlyAdvances i s) ∧ (n ≠ 0 → VecRuns i s rd w n g unit mp tp uses mask op fl more)

/-- A variable-latency element instruction completes: with SA = 0 as a fixed-latency one, with a tag its result is pending
(R166, R168). -/
def VecVar (i : Instr) (s : State) (rd : Reg) (w n unit : Nat) (mp tp : Bool) (uses : Nat → List VPlace) (mask : Nat → Bool)
    (op : Nat → Nat) (fl : Nat → Flags) : Prop :=
  (n = 0 → OnlyAdvances i s) ∧
  (n ≠ 0 → Unmarked s.cur →
    if s.cur.ctl.sa = 0 ∨ (s.cur.splitAt unit n rd w uses).isSome = true then VecResult i s rd w n 1 unit mp tp uses mask op fl []
    else
      ∃ t p, exec i s = .next t ∧ WentOn s t ∧ OutsideKept s t ∧ KeptBut [.c 2] s.cur t.cur ∧ t.cur.cr 2 = 0 ∧
        t.cur.pend = s.cur.pend ++ [p] ∧ p.tag = s.cur.ctl.sa.toNat ∧ p.late = none ∧
        p.flags = elemFlags s.cur n mask fl ∧
        ∀ v ∈ p.vals, v.reg = .v (s.cur.vslot (rd.toNat % 64)) ∧ ∀ k < s.cur.cap w,
          elemGet s.cur.lanes w (BitVec.ofNat 16384 v.val) k = elemAfter s.cur rd w n mp tp mask op k)

/-- An element instruction with a mask destination completes as R236 says; m0 is never written (R174). -/
def MaskResult (i : Instr) (s : State) (rd : Reg) (n : Nat) (mp tp : Bool) (mask : Nat → Bool) (op : Nat → Bool) : Prop :=
  rd.toNat < 16 → (n = 0 → OnlyAdvances i s) ∧
  (n ≠ 0 → Unmarked s.cur →
    let old (k : Nat) : Bool := (s.cur.m.getD rd.toNat 0).getLsbD k
    let body (k : Nat) : Bool := if k < s.cur.estart then old k else if mask k then op k else !mp && old k
    ∃ t, exec i s = .next t ∧ OutsideKept s t ∧ KeptBut [.m rd.toNat, .c 2] s.cur t.cur ∧
      match s.cur.stopAt 1 n with
      | none => WentOn s t ∧ t.cur.cr 2 = 0 ∧
          if rd = 0 then t.cur.m = s.cur.m
          else ∀ k < 8192, (t.cur.m.getD rd.toNat 0).getLsbD k = if n ≤ k then tp && old k else body k
      | some b => StoppedAt b s t ∧
          if rd = 0 then t.cur.m = s.cur.m
          else ∀ k < 8192, (t.cur.m.getD rd.toNat 0).getLsbD k = if b ≤ k then old k else body k)

/-- The mask of an instruction under its VM field (R236). -/
def maskBit (s : State) (f : TR) (i : Nat) : Bool := (s.opM 0 f.vm.toNat).getLsbD i

/-- Element `i` of the first source. -/
def srcA (s : State) (f : TR) (i : Nat) : Nat := elemGet s.cur.lanes f.ty.bits (s.opV 0 f.rs1) i

/-- Element `i` of the second source, or the scalar in its place (R237). -/
def srcB (s : State) (f : TR) (i : Nat) : Nat :=
  if f.s then (s.opS 0 f.rs2).toNat % 2 ^ f.ty.bits else elemGet s.cur.lanes f.ty.bits (s.opV 1 f.rs2) i

/-- The places of the vector registers that element `i` reads: that of the first source alone, and those of both. -/
def useA (s : State) (f : TR) (i : Nat) : List VPlace := [s.cur.place f.rs1 f.ty.bits i]

/-- The same for an instruction of two sources, of which the second may be a scalar (R237). -/
def useAB (s : State) (f : TR) (i : Nat) : List VPlace :=
  s.cur.place f.rs1 f.ty.bits i :: if f.s then [] else [s.cur.place f.rs2 f.ty.bits i]

end Sys2Proof.Claims

/-- R236, R241: every element-wise integer instruction, for every type, mask, policy, vl and estart. -/
def Obligations.VectorIntegerResults : Prop :=
  ∀ (s : State) (f : TR),
    let w := f.ty.bits
    let n := s.cur.count w
    let bv (k : Nat) : BitVec w := BitVec.ofNat w k
    let num (k : Nat) : Int := if f.ty.isN then (k % 2 ^ w : Nat) else (bv k).toInt
    let of (i : Instr) (op : Nat → Nat → Nat) : Prop :=
      VecResult i s f.rd w n 1 1 f.mp f.tp (useAB s f) (maskBit s f) (fun k => op (srcA s f k) (srcB s f k)) (fun _ => 0) []
    of (.vadd f) (fun a b => a + b) ∧ of (.vsub f) (fun a b => (bv a - bv b).toNat) ∧ of (.vmul f) (fun a b => a * b) ∧
    of (.vmulh f) (fun a b => (num a * num b / 2 ^ w % 2 ^ w).toNat) ∧
    of (.vmin f) (fun a b => if num b < num a then b else a) ∧ of (.vmax f) (fun a b => if num a < num b then b else a) ∧
    of (.vand f) (fun a b => a &&& b) ∧ of (.vor f) (fun a b => a ||| b) ∧ of (.vxor f) (fun a b => a ^^^ b) ∧
    of (.vshl f) (fun a b => a * 2 ^ (b % w)) ∧ of (.vshr f) (fun a b => a / 2 ^ (b % w)) ∧
    of (.vsar f) (fun a b => ((bv a).sshiftRight (b % w)).toNat) ∧
    (f.s = false → VecResult (.vsel f) s f.rd w n 1 1 f.mp f.tp
      (fun k => [s.cur.place (if maskBit s f k then f.rs1 else f.rs2) w k]) (fun _ => true)
      (fun k => if maskBit s f k then srcA s f k else srcB s f k) (fun _ => 0) []) ∧
    ∀ cc, MaskResult (.vcmp cc f) s f.rd n f.mp f.tp (maskBit s f) fun k =>
      let x := num (srcA s f k)
      let y := num (srcB s f k)
      match cc with
      | .eq => decide (x = y) | .ne => decide (x ≠ y) | .lt => decide (x < y) | .le => decide (x ≤ y)
      | .gt => decide (y < x) | .ge => decide (y ≤ x) | .uo => false

/-- R242: widening sums and products are exact in a group of two, narrowing saturates and raises OF, and `vdot4` adds four products to
each 32-bit element. -/
def Obligations.VectorWideningResults : Prop :=
  ∀ (s : State) (f : TR),
    let w := f.ty.bits
    let n := s.cur.count w
    let num (t : Ty) (k : Nat) : Int := intVal t k
    VecResult (.vwadd f) s f.rd (2 * w) n 2 1 f.mp f.tp (useAB s f) (maskBit s f)
      (fun k => ((num f.ty (srcA s f k) + num f.ty (srcB s f k)) % 2 ^ (2 * w)).toNat) (fun _ => 0) [] ∧
    VecResult (.vwmul f) s f.rd (2 * w) n 2 1 f.mp f.tp (useAB s f) (maskBit s f)
      (fun k => ((num f.ty (srcA s f k) * num f.ty (srcB s f k)) % 2 ^ (2 * w)).toNat) (fun _ => 0) [] ∧
    (let z (k : Nat) : Int := num f.ty2 (groupGet s.cur.lanes (2 * w) (s.opGroup 0 f.rs1 2) k)
     VecResult (.vnarrow f) s f.rd w n 1 1 f.mp f.tp (fun k => [s.cur.place f.rs1 (2 * w) k]) (maskBit s f)
      (fun k => ((if z k < tyLo f.ty then tyLo f.ty else if tyHi f.ty < z k then tyHi f.ty else z k) % 2 ^ w).toNat)
      (fun k => if tyLo f.ty ≤ z k ∧ z k ≤ tyHi f.ty then 0 else fOF) []) ∧
    VecResult (.vdot4 f) s f.rd 32 (s.cur.count 32) 1 0 f.mp f.tp (fun _ => []) (maskBit s f)
      (fun k => (((elemGet s.cur.lanes 32 (s.opV 2 f.rd) k : Int) + ((List.range 4).map fun j =>
        num f.ty (elemGet s.cur.lanes w (s.opV 0 f.rs1) (4 * k + j)) *
          num f.ty (elemGet s.cur.lanes w (s.opV 1 f.rs2) (4 * k + j))).sum) % 2 ^ 32).toNat) (fun _ => 0) []

/-- R243, R244: the element-wise floating-point instructions, each result rounded once in the instruction's mode, with the flags
of the active elements ORed into ctl.fflags; comparisons write masks and raise none. -/
def Obligations.VectorFloatResults : Prop :=
  ∀ (s : State) (f : TR),
    let w := f.ty.bits
    let n := s.cur.count w
    let m := if f.rm = .dyn then s.cur.fpm else f.rm
    let F := fmtOf f.ty
    let x (k : Nat) : FVal := decodeFp F (srcA s f k)
    let y (k : Nat) : FVal := decodeFp F (srcB s f k)
    let b (k : Nat) : FVal := decodeFp F (elemGet s.cur.lanes w (s.opV 1 f.rs2) k)
    let z (k : Nat) : FVal := decodeFp F (elemGet s.cur.lanes w (s.opV 2 f.rs3) k)
    let three (k : Nat) : List VPlace := [s.cur.place f.rs1 w k, s.cur.place f.rs2 w k, s.cur.place f.rs3 w k]
    let of (uses : Nat → List VPlace) (i : Instr) (op : Nat → Nat × Flags) : Prop :=
      VecResult i s f.rd w n 1 1 f.mp f.tp uses (maskBit s f) (fun k => (op k).1) (fun k => (op k).2) []
    let one := of (useA s f)
    let two := of (useAB s f)
    let var (i : Instr) (unit : Nat) (uses : Nat → List VPlace) (op : Nat → Nat × Flags) : Prop :=
      VecVar i s f.rd w n unit f.mp f.tp uses (maskBit s f) (fun k => (op k).1) (fun k => (op k).2)
    two (.vfadd f) (fun k => addFp F m (x k) (y k)) ∧ two (.vfsub f) (fun k => addFp F m (x k) (y k).neg) ∧
    two (.vfmul f) (fun k => mulFp F m (x k) (y k)) ∧ of three (.vfma f) (fun k => fmaFp F m (x k) (b k) (z k)) ∧
    of three (.vfnma f) (fun k => fmaFp F m (x k).neg (b k) (z k)) ∧ var (.vfdiv f) 1 (useAB s f) (fun k => divFp F m (x k) (y k)) ∧
    var (.vfsqrt f) 1 (useA s f) (fun k => sqrtFp F m (x k)) ∧
    two (.vfmin f) (fun k => (minMaxFp F false (srcA s f k) (srcB s f k), 0)) ∧
    two (.vfmax f) (fun k => (minMaxFp F true (srcA s f k) (srcB s f k), 0)) ∧
    one (.vfabs f) (fun k => (srcA s f k % 2 ^ (w - 1), 0)) ∧ one (.vfneg f) (fun k => (srcA s f k ^^^ 2 ^ (w - 1), 0)) ∧
    one (.vfexpo f) (fun k => (expoFp F (x k), 0)) ∧
    two (.vfscale f) (fun k => scaleFp F m (x k) (toSigned w (srcB s f k))) ∧
    var (.vrsqrte f) 0 (useA s f) (fun k => rsqrtE (x k)) ∧ var (.vrcpe f) 0 (useA s f) (fun k => rcpE (x k)) ∧
    var (.vexp2e f) 0 (useA s f) (fun k => exp2E (x k)) ∧ var (.vlog2e f) 0 (useA s f) (fun k => log2E (x k)) ∧
    ∀ cc, MaskResult (.vfcmp cc f) s f.rd n f.mp f.tp (maskBit s f) fun k => cmpFp cc (x k) (b k)

/-- R203-R206: conversions, block scales, quantisation and dequantisation; the stochastic forms advance CTR by vl (R198, R199). The
loops of R203 and R204 run at N = 0 too: the tail policy then takes every element.
That `vmxscale` begun at estart takes the blocks from the one that holds estart is the model's reading (log 63). -/
def Obligations.ConversionResults : Prop :=
  ∀ (s : State) (f : TR),
    let c := s.cur
    let m := if f.rm = .dyn then c.fpm else f.rm
    let n := c.count (min f.ty.bits f.ty2.bits)
    let src (k : Nat) : Nat := groupGet c.lanes f.ty2.bits (s.opGroup 0 f.rs1 (max 1 (f.ty2.bits / f.ty.bits))) k
    let scale (k : Nat) : Nat := elemGet c.lanes 8 (s.opV 1 f.rs2) (k / 32)
    let useSrc (k : Nat) : List VPlace := [c.place f.rs1 f.ty2.bits k]
    let useMx (k : Nat) : List VPlace := useSrc k ++ [c.place f.rs2 8 (k / 32)]
    let of (uses : Nat → List VPlace) (i : Instr) (op : Nat → Nat × Flags) (more : List PReg) : Prop :=
      VecRuns i s f.rd f.ty.bits n (max 1 (f.ty.bits / f.ty2.bits)) 1 f.mp f.tp uses (maskBit s f) (fun k => (op k).1)
        (fun k => (op k).2) more
    let counted (uses : Nat → List VPlace) (i : Instr) : Prop := Unmarked c → c.splitAt 1 n f.rd f.ty.bits uses = none →
      ∃ t, exec i s = .next t ∧ (t.cur.cr 16).toNat = ((c.cr 16).toNat + c.vl) % 2 ^ 32
    of useSrc (.vcvt f) (fun k => convElem f.ty m (elemVal f.ty2 (src k))) [] ∧
    of useSrc (.vcvtSr f) (fun k => convSr f.ty (c.srWordAt k) (elemVal f.ty2 (src k))) [.c 16] ∧ counted useSrc (.vcvtSr f) ∧
    of useMx (.vmxq false f) (fun k => mxQuant f.ty none (scale k) (elemVal f.ty2 (src k))) [] ∧
    of useMx (.vmxq true f) (fun k => mxQuant f.ty (some (c.srWordAt k)) (scale k) (elemVal f.ty2 (src k))) [.c 16] ∧
    counted useMx (.vmxq true f) ∧
    of useMx (.vmxdq f) (fun k => mxDequant f.ty f.ty2 m (scale k) (src k)) [] ∧
    (let w := f.ty2.bits
     let n := c.count w
     let x (k : Nat) : Nat := elemGet c.lanes w (s.opV 0 f.rs1) k
     let blocks := (n + 31) / 32
     let old (b : Nat) : Nat := elemGet c.lanes 8 (c.v.getD (c.vslot f.rd.toNat) 0) b
     let body (b : Nat) : Nat := if b < c.estart / 32 then old b
       else mxScaleOf f.ty (((List.range n).filter fun k => c.estart ≤ k && maskBit s f k && k / 32 == b).map
         fun k => elemVal f.ty2 (x k))
     Unmarked c → ∃ t, exec (.vmxscale f) s = .next t ∧ OutsideKept s t ∧ KeptBut [.v (c.vslot f.rd.toNat), .c 2] c t.cur ∧
        let new (b : Nat) : Nat := elemGet c.lanes 8 (t.cur.v.getD (c.vslot f.rd.toNat) 0) b
        match (c.stopAt 32 n).filter fun k =>
          c.splitOk ((List.range (k / 32)).map (c.place f.rd 8)) ((List.range (n - k)).map fun i => c.place f.rs1 w (k + i)) with
        | none => WentOn s t ∧ t.cur.cr 2 = 0 ∧
            ∀ b < c.cap 8, new b = if blocks ≤ b then (if f.tp then old b else 0) else body b
        | some k => StoppedAt k s t ∧ ∀ b < c.cap 8, new b = if k / 32 ≤ b then old b else body b)

namespace Sys2Proof.Claims

/-- A grant that the cluster can give (R142). -/
def LegalGrant (c : Ctx) : Prop := c.lanes ∈ [1, 2, 4, 8, 16, 32]

/-- An instruction whose destination elements below `n` are `val`, with the tail policy from there on (R236, R247-R249). -/
def Fills (i : Instr) (s : State) (f : TR) (n : Nat) (val : Nat → Nat) (regs : List PReg) : Prop :=
  ∃ t, exec i s = .next t ∧ WentOn s t ∧ OutsideKept s t ∧
    KeptBut (.v (s.cur.vslot f.rd.toNat) :: .c 2 :: regs) s.cur t.cur ∧ t.cur.cr 2 = 0 ∧
    ∀ k < s.cur.cap f.ty.bits, groupElem s.cur t.cur f.rd f.ty.bits k =
      if k < n then val k % 2 ^ f.ty.bits else if f.tp then groupElem s.cur s.cur f.rd f.ty.bits k else 0

/-- The indices of segment `k` that a reduction takes: active and below N (R247). -/
def segment (s : State) (f : TR) (k : Nat) : List Nat :=
  let p := s.cur.cap f.ty.bits / s.cur.segments
  ((List.range p).map fun j => k * p + j).filter fun i => i < s.cur.count f.ty.bits && maskBit s f i

/-- The leaves of the tree of segment `k`: the identity stands for what is not taken (R247). -/
def leaves (s : State) (f : TR) (r : RedOp) (k : Nat) : List Nat :=
  let p := s.cur.cap f.ty.bits / s.cur.segments
  (List.range p).map fun j =>
    if k * p + j < s.cur.count f.ty.bits ∧ maskBit s f (k * p + j) then srcA s f (k * p + j) else r.ident

/-- The indices of the segment of `i` up to `i` that a scan takes (R248). -/
def prefixOf (s : State) (f : TR) (i : Nat) : List Nat :=
  let p := s.cur.cap f.ty.bits / s.cur.segments
  ((List.range (i + 1)).filter fun j => j / p = i / p && maskBit s f j)

/-- p[j] of a chunk after `i` passes of R248's network, from its leaves: pass `i` adds the value at distance 2^i, every j at once. -/
def scanNode (r : RedOp) (leaf : Nat → Nat) : Nat → Nat → Nat
  | 0, j => leaf j
  | i + 1, j => if 2 ^ i ≤ j then (r.op (scanNode r leaf i (j - 2 ^ i)) (scanNode r leaf i j)).1 else scanNode r leaf i j

/-- The carry into chunk `b` of a segment in chunks of `len` elements (R248). -/
def scanCarry (r : RedOp) (leaf : Nat → Nat) (len : Nat) : Nat → Nat
  | 0 => r.ident
  | b + 1 => (r.op (scanCarry r leaf len b) (scanNode r (fun j => leaf (b * len + j)) (ilog2 len) (len - 1))).1

end Sys2Proof.Claims

/-- R247: an integer reduction adds the sum, minimum or maximum of the active elements of each segment to the segment's seed,
whatever the order; a floating-point one takes the tree's order; the other elements follow the tail policy. With N = 0 nothing
is written.
That nothing is written with N = 0 is the model's reading (log 64). -/
def Obligations.ReductionResults : Prop :=
  ∀ (s : State) (f : TR), LegalGrant s.cur → Unmarked s.cur →
    let w := f.ty.bits
    let n := s.cur.count w
    let g := s.cur.segments
    let seed (k : Nat) : Nat := elemGet s.cur.lanes w (s.opV 1 f.rs2) k
    let num (k : Nat) : Int := intVal f.ty k
    let m := if f.rm = .dyn then s.cur.fpm else f.rm
    let tree (r : RedOp) (k : Nat) : Nat := (r.op (seed k) (r.tree 14 (leaves s f r k)).1).1
    (n = 0 → ∀ i ∈ [Instr.vredsum f, .vredmin f, .vredmax f, .vfredsum f, .vfredmin f, .vfredmax f], OnlyAdvances i s) ∧
    (n ≠ 0 →
      Fills (.vredsum f) s f g (fun k => seed k + ((segment s f k).map (srcA s f)).sum) [] ∧
      Fills (.vredmin f) s f g (fun k =>
        ((((segment s f k).map fun i => num (srcA s f i)).foldl min (num (seed k))) % 2 ^ w).toNat) [] ∧
      Fills (.vredmax f) s f g (fun k =>
        ((((segment s f k).map fun i => num (srcA s f i)).foldl max (num (seed k))) % 2 ^ w).toNat) [] ∧
      Fills (.vfredsum f) s f g (tree (redFadd f.ty m)) [.c 14] ∧ Fills (.vfredmin f) s f g (tree (redFmin f.ty)) [] ∧
      Fills (.vfredmax f) s f g (tree (redFmax f.ty)) [])

/-- R248: an integer scan leaves in each active element the sum, minimum or maximum of the active elements of its segment up to
it; inactive elements and the tail follow the policies. A floating-point scan takes the chunks of a segment in order, with the prefix
network within each. -/
def Obligations.ScanResults : Prop :=
  ∀ (s : State) (f : TR), LegalGrant s.cur → Unmarked s.cur →
    let w := f.ty.bits
    let n := s.cur.count w
    let num (k : Nat) : Int := intVal f.ty k
    let old (k : Nat) : Nat := groupElem s.cur s.cur f.rd w k
    let row (k v : Nat) : Nat := if maskBit s f k then v else if f.mp then 0 else old k
    (n = 0 → ∀ op, OnlyAdvances (.vscan op f) s) ∧
    (n ≠ 0 →
      Fills (.vscan .add f) s f n (fun k => row k ((prefixOf s f k).map (srcA s f)).sum) [] ∧
      Fills (.vscan .min f) s f n (fun k =>
        row k ((((prefixOf s f k).map fun i => num (srcA s f i)).foldl min (tyHi f.ty)) % 2 ^ w).toNat) [] ∧
      Fills (.vscan .max f) s f n (fun k =>
        row k ((((prefixOf s f k).map fun i => num (srcA s f i)).foldl max (tyLo f.ty)) % 2 ^ w).toNat) [] ∧
      (let r := redFadd f.ty (if f.rm = .dyn then s.cur.fpm else f.rm)
       let p := s.cur.cap w / s.cur.segments
       let len := min s.cur.lanes p
       let leaf (k j : Nat) : Nat := let i := k / p * p + j
         if i < n ∧ maskBit s f i then srcA s f i else r.ident
       Fills (.vscan .fadd f) s f n (fun k => row k
         (r.op (scanCarry r (leaf k) len (k % p / len))
           (scanNode r (fun j => leaf k (k % p / len * len + j)) (ilog2 len) (k % len))).1) [.c 14]))

/-- R249: slides, permutes, compression, expansion, broadcast and the moves between a vector element and a scalar register. -/
def Obligations.PermuteResults : Prop :=
  ∀ (s : State) (f : TR),
    let c := s.cur
    let w := f.ty.bits
    let n := c.count w
    let x := srcA s f
    let k := (s.opS 0 f.rs3).toNat
    let ix (i : Nat) : Nat := elemGet c.lanes w (s.opV 1 f.rs2) i
    let of (i : Instr) (op : Nat → Nat) : Prop := VecResult i s f.rd w n 1 0 f.mp f.tp (fun _ => []) (maskBit s f) op (fun _ => 0) []
    let on := (List.range n).filter fun i => maskBit s f i
    of (.vslideup f) (fun i => if k ≤ i then x (i - k) else groupElem c c f.rd w i) ∧
    of (.vslidedn f) (fun i => if i + k < n then x (i + k) else 0) ∧
    of (.vperm f) (fun i => if ix i < n then x (ix i) else 0) ∧
    of (.vexpand f) (fun i => x (((List.range i).filter fun j => maskBit s f j).length)) ∧
    of (.vbcast f) (fun _ => k) ∧
    (n = 0 → OnlyAdvances (.vcompress f) s) ∧
    (n ≠ 0 → Unmarked c → Fills (.vcompress f) s f on.length (fun j => x (on.getD j 0)) []) ∧
    (Unmarked c → Gives (.vextS f) s f.rd (if n ≤ k then 0 else BitVec.ofInt 64 (toSigned w (x k)))) ∧
    (Unmarked c →
      let j := (s.opS 1 f.rs3).toNat
      (n ≤ j → OnlyAdvances (.vinsS f) s) ∧
      (j < n → ∃ t, exec (.vinsS f) s = .next t ∧ WentOn s t ∧ OutsideKept s t ∧
        KeptBut [.v (c.vslot f.rd.toNat), .c 2] c t.cur ∧ ∀ i < c.cap w, groupElem c t.cur f.rd w i =
          if i = j then (s.opS 0 f.rs1).toNat % 2 ^ w else groupElem c c f.rd w i))

/-- R250: operations on mask registers below vl, and the count and the first of the selected bits. -/
def Obligations.MaskResults : Prop :=
  ∀ (s : State) (f : TR), Unmarked s.cur →
    let n := min s.cur.vl 8192
    let a (k : Nat) : Bool := (s.opM 0 f.rs1.toNat).getLsbD k
    let b (k : Nat) : Bool := (s.opM 1 f.rs2.toNat).getLsbD k
    let of (i : Instr) (op : Nat → Bool) : Prop :=
      (n = 0 → OnlyAdvances i s) ∧
      (n ≠ 0 → f.rd.toNat < 16 → ∃ t, exec i s = .next t ∧ WentOn s t ∧ OutsideKept s t ∧
        KeptBut [.m f.rd.toNat, .c 2] s.cur t.cur ∧
        if f.rd = 0 then t.cur.m = s.cur.m
        else ∀ k < 8192, (t.cur.m.getD f.rd.toNat 0).getLsbD k =
          if k < n then op k else f.tp && (s.cur.m.getD f.rd.toNat 0).getLsbD k)
    let on := (List.range n).filter fun k => a k && (s.opM 1 f.vm.toNat).getLsbD k
    of (.mand f) (fun k => a k && b k) ∧ of (.mor f) (fun k => a k || b k) ∧ of (.mxor f) (fun k => a k != b k) ∧
    of (.mnot f) (fun k => !a k) ∧
    Gives (.mpopc f) s f.rd (BitVec.ofNat 64 on.length) ∧
    Gives (.mfirst f) s f.rd (match on with
      | [] => BitVec.allOnes 64
      | k :: _ => BitVec.ofNat 64 k)

/-! ### Vector configuration -/

/-- R232, R143, R144: `setvl` adopts the grant and the width, sets vl to the smaller of the request and the capacity, clears
estart, and keeps every element below both capacities. -/
def Obligations.SetvlResult : Prop :=
  ∀ (s : State) (rd a : Reg) (sew : BitVec 3) (l' : Nat), s.badS false [a] = false → s.cur.mq = [] → s.cur.pend = [] →
    s.cur.status = .running → s.adopt = some l' → l' ≤ 32 → sew.toNat ≤ 5 →
    let w := 2 * 2 ^ sew.toNat
    let vl := min (s.opS 0 a).toNat (l' * 512 / w)
    ∃ t, exec (.setvl rd a sew) s = .next t ∧ WentOn s t ∧ OutsideKept s t ∧
      (t.cur.cr 0).toNat = vl ∧ (t.cur.cr 1).toNat = l' ∧ t.cur.cr 2 = 0 ∧
      bits (t.cur.cr 3) 0 3 = sew.toNat ∧ t.cur.cr 3 >>> 3 = s.cur.cr 3 >>> 3 ∧
      t.cur.regVal (.s rd.toNat) = (if rd = 0 then 0 else vl) ∧
      (∀ n, n ≠ rd.toNat → t.cur.s.getD n 0 = s.cur.s.getD n 0) ∧ (∀ n, 4 ≤ n → t.cur.cr n = s.cur.cr n) ∧
      (s.cur.lanes = l' → KeptBut ([.c 0, .c 1, .c 2, .c 3] ++ scalarDst rd) s.cur t.cur) ∧
      ∀ n < 64, ∀ i < min s.cur.lanes l' * 512 / w,
        elemGet l' w (t.cur.v.getD n 0) i = elemGet s.cur.lanes w (s.cur.v.getD n 0) i

/-- R234: `vcfg`. And what R233 says of the registers that `vclaim` writes, for each kind of context. -/
def Obligations.ClaimAndConfig : Prop :=
  ∀ (s : State) (rd : Reg) (req floor gs : BitVec 3) (mp tp : Bool),
    (16 ≤ s.cur.lreq → Gives (.vclaim rd req floor) s rd (BitVec.ofNat 64 s.cur.lanes)) ∧
    (s.cur.lreq < 16 → s.cur.icap = 0 → Gives (.vclaim rd req floor) s rd 0) ∧
    (s.cur.lreq < 16 → s.cur.icap ≠ 0 → s.cur.status = .running →
      ∃ t, exec (.vclaim rd req floor) s = .next t ∧ WentOn s t ∧
        t.cur.lreq = min (min (laneCode req.toNat) 8) s.cur.icap ∧ t.cur.lmin = min (min (laneCode floor.toNat) 8) s.cur.icap ∧
        t.cur.regVal (.s rd.toNat) = (if rd = 0 then 0 else t.cur.target % 2 ^ 64) ∧
        (∀ n, n ≠ rd.toNat → t.cur.s.getD n 0 = s.cur.s.getD n 0) ∧ t.cur.v = s.cur.v ∧ t.cur.m = s.cur.m ∧
        t.cur.creg = s.cur.creg ∧ t.mem = s.mem ∧ t.tmem = s.tmem ∧ t.nodes = s.nodes) ∧
    (∃ t, exec (.vcfg rd gs mp tp) s = .next t ∧ WentOn s t ∧ OutsideKept s t ∧ KeptBut (.c 3 :: scalarDst rd) s.cur t.cur ∧
      t.cur.regVal (.s rd.toNat) = (if rd = 0 then 0 else (s.cur.cr 3).toNat) ∧
      bits (t.cur.cr 3) 4 3 = gs.toNat ∧ (t.cur.cr 3).getLsbD 8 = mp ∧ (t.cur.cr 3).getLsbD 9 = tp ∧
      bits (t.cur.cr 3) 0 4 = bits (s.cur.cr 3) 0 4 ∧ (t.cur.cr 3).getLsbD 7 = (s.cur.cr 3).getLsbD 7 ∧
      t.cur.cr 3 >>> 10 = s.cur.cr 3 >>> 10)

/-! ### Stream registers and vector memory -/

namespace Sys2Proof.Claims

/-- Of the context in focus only the stream register `n` and the registers listed may differ; what its monitor heard may. -/
def StreamKept (n : Nat) (regs : List PReg) (s t : State) : Prop :=
  KeptBut regs (unheard s.cur) { unheard t.cur with q := s.cur.q } ∧ ∀ m, m ≠ n → t.cur.q.getD m {} = s.cur.q.getD m {}

/-- The registers that a vector memory instruction may write besides its data: estart, and ctl.scope where an order at .s is demoted
(R129), by the instruction's own order or by the header reads of a chained stream (R32). -/
def memRegs (ordered : Bool) (q : QReg) : List PReg := [.c 2] ++ (if ordered || q.chain then [.c 21] else [])

/-- A vector load whose elements `es` have places completes (R258-R260): `t0` is the state after the places were found, `q` the
stream register with the links read, `n` the count that the load uses, and `newVl` a truncated vl. Elements from `n` up become
zero, masked elements keep their value, the others hold the bytes read; the stream moves past `n` elements where `adv` says so. Where
a pre-emption stops it (R152), the elements before that boundary are loaded, the others and the stream register are as they were;
`uses` are the places of an index register that an element reads. -/
def VLoads (i : Instr) (f : VMem) (acq gather adv : Bool) (uses : Nat → List VPlace) (n : Nat) (q : QReg) (es : List VElem)
    (newVl : Option Nat) (s t0 : State) : Prop :=
  let w := EWidth.bits f.w
  let cut := s.cur.splitAt 1 n f.rd w uses
  let es := es.filter fun e => cut.all fun b => e.i < b
  let ps := allPieces es
  let sc := (t0.ordScope acq f.sc).1
  let u := ((t0.ordScope acq f.sc).2.useAll .read ps).freshenAll sc ps
  let r := (u.readElems (fun k => if gather then gatherTag q w s.cur.estart k else none) w es).1
  let regs : List PReg := memRegs acq q
  let dst : PReg := .v (s.cur.vslot f.rd.toNat)
  let loaded (k : Nat) : Nat := match r.1.find? fun e => e.1 == k with
    | some e => e.2 % 2 ^ w
    | none => groupElem s.cur s.cur f.rd w k
  r.2 = none → ∃ t, exec i s = .next t ∧ MemoryOnly s { t with cur := s.cur } ∧ match cut with
  | some b => StoppedAt b s t ∧ t.cur.q = s.cur.q ∧ StreamKept f.rs1.toNat (regs ++ [dst]) s t ∧
    ∀ k < s.cur.cap w, groupElem s.cur t.cur f.rd w k = if b ≤ k then groupElem s.cur s.cur f.rd w k else loaded k
  | none => WentOn s t ∧ t.cur.cr 2 = 0 ∧
    (if adv then (t.cur.q.getD f.rs1.toNat {}).count = BitVec.ofNat 64 (q.left - n) ∧
        (q.chain = false → (t.cur.q.getD f.rs1.toNat {}).base = BitVec.ofNat 64 (q.place w n).1)
      else t.cur.q = s.cur.q) ∧
    if s.cur.ctl.sa = 0 then
      StreamKept f.rs1.toNat (regs ++ [dst] ++ (if newVl.isSome then [.c 0] else [])) s t ∧
      (∀ v, newVl = some v → (t.cur.cr 0).toNat = v % 2 ^ 64) ∧
      ∀ k < s.cur.cap w, groupElem s.cur t.cur f.rd w k = if n ≤ k then 0 else loaded k
    else
      StreamKept f.rs1.toNat regs s t ∧ ∃ p, t.cur.pend = s.cur.pend ++ [p] ∧ p.tag = s.cur.ctl.sa.toNat ∧ p.late = none

/-- A byte of the tile space that a piece covers. -/
def coversTile (o : Nat) (p : Nat × Nat × Loc) (a : Nat) : Prop :=
  match p.2.2 with
  | .tile t off => tileAddr o t off ≤ a ∧ a < tileAddr o t off + p.2.1
  | _ => False

/-- A byte of the L2 scratch that a piece covers. -/
def coversScratch (p : Nat × Nat × Loc) (a : Nat) : Prop :=
  match p.2.2 with
  | .scratch b => b ≤ a ∧ a < b + p.2.1
  | _ => False

/-- A piece lies in a line of memory that a page leads to. -/
def inLine (l : Leaf) (line : Nat) (p : Nat × Nat × Loc) : Prop := ∃ pa, p.2.2 = .page l pa ∧ pa / 128 = line

/-- The byte of its line that a piece covers. -/
def coversByte (p : Nat × Nat × Loc) (k : Nat) : Prop := Loc.off p.2.2 ≤ k ∧ k < Loc.off p.2.2 + p.2.1

/-- The bytes that elements `es` of `w` bits with values `val` leave in tiles and in the L2 scratch: one that no element covers is as it
was, and one that a single element covers is that element's. -/
def ElemsStored (es : List VElem) (w : Nat) (val : Nat → Nat) (s t : State) : Prop :=
  let alone (e : VElem) (q : Nat × Nat × Loc) : Prop := ∀ e' ∈ es, e' ≠ e → ∀ p ∈ e'.ps, ∀ a,
    (coversTile s.cur.cluster q a → ¬ coversTile s.cur.cluster p a) ∧ (coversScratch q a → ¬ coversScratch p a)
  (∀ a, (∀ p ∈ allPieces es, ¬ coversTile s.cur.cluster p a) → t.tmem.byte a = s.tmem.byte a) ∧
  (∀ a, (∀ p ∈ allPieces es, ¬ coversScratch p a) → t.l2s.byte a = s.l2s.byte a) ∧
  ∀ e ∈ es, 8 ≤ w →
    (∀ va k tl off, e.ps = [(va, k, .tile tl off)] → alone e (va, k, .tile tl off) →
      ∀ j < k, t.tmem.byte (tileAddr s.cur.cluster tl off + j) = BitVec.ofNat 8 (val e.i / 2 ^ (8 * j))) ∧
    ∀ va k b, e.ps = [(va, k, .scratch b)] → alone e (va, k, .scratch b) →
      ∀ j < k, t.l2s.byte (b + j) = BitVec.ofNat 8 (val e.i / 2 ^ (8 * j))

/-- The bytes that elements `es` with values `val` leave where they lie in one line of memory, from a state `u` with the translations
used: theirs alone change there, and one that a single element covers is that element's. -/
def LineStored (es : List VElem) (val : Nat → Nat) (s u t : State) : Prop :=
  ∀ l line, allPieces es ≠ [] → (∀ p ∈ allPieces es, inLine l line p) → region (128 * line) = .fast ∨ region (128 * line) = .cap →
    ∃ d mask, StoredLine s u t true l line d mask ∧
      (∀ k < 128, mask.getLsbD k = true ↔ ∃ p ∈ allPieces es, coversByte p k) ∧
      ∀ e ∈ es, ∀ va k pa, e.ps = [(va, k, .page l pa)] →
        (∀ e' ∈ es, e' ≠ e → ∀ p ∈ e'.ps, ∀ j < k, ¬ coversByte p (pa % 128 + j)) →
        ∀ j < k, lineGet d (pa % 128 + j) 1 = val e.i / 2 ^ (8 * j) % 256

/-- A vector store whose elements `es` have places completes (R258-R260): its elements' bytes alone change, and the stream moves past
`n` elements where `adv` says so. Where a pre-emption stops it (R152), that is so of the elements before the boundary, and the stream register stays. -/
def VStores (i : Instr) (f : VMem) (adv : Bool) (n : Nat) (q : QReg) (es : List VElem) (s : State) : Prop :=
  let w := EWidth.bits f.w
  let cut := s.cur.stopAt 1 n
  let es := es.filter fun e => cut.all fun b => e.i < b
  s.tmem.wf → s.l2s.wf → ∃ t, exec i s = .next t ∧ MemoryOnly s (withWindows s { t with cur := s.cur }) ∧
    StreamKept f.rs1.toNat (memRegs (f.ord == .rel) q) s t ∧
    (match cut with
      | some b => StoppedAt b s t ∧ t.cur.q = s.cur.q
      | none => WentOn s t ∧ t.cur.cr 2 = 0 ∧
        if adv then (t.cur.q.getD f.rs1.toNat {}).count = BitVec.ofNat 64 (q.left - n) else t.cur.q = s.cur.q) ∧
    ElemsStored es w (elemGet s.cur.lanes w (s.opV 1 f.rd)) s t ∧
    (8 ≤ w → f.ord ≠ .rel → q.chain = false →
      LineStored es (elemGet s.cur.lanes w (s.opV 1 f.rd)) s (s.useAll .write (allPieces es)) t)

/-- A vector load whose active elements `on` lie in tiles that the context holds completes (R25, R258): each element is the tile's
bytes at its place. -/
def VLoadsTile (i : Instr) (f : VMem) (on : List Nat) (place : Nat → Nat) (s : State) : Prop :=
  let w := EWidth.bits f.w
  s.cur.cut = none → s.tmem.wf → (∀ k ∈ on, CleanTile s (place k) (EWidth.bytes f.w)) →
    ∃ t, exec i s = .next t ∧ WentOn s t ∧ t.tmem = s.tmem ∧
      (s.cur.ctl.sa = 0 → 8 ≤ w → ∀ k ∈ on,
        groupElem s.cur t.cur f.rd w k = s.tmem.get (winAddr s (place k)) (EWidth.bytes f.w))

/-- A vector store whose active elements `on` go to tiles that the context holds completes (R25, R258): a byte of a tile that no
element covers is as it was, and one that a single element covers is that element's. -/
def VStoresTile (i : Instr) (f : VMem) (on : List Nat) (place : Nat → Nat) (s : State) : Prop :=
  let w := EWidth.bits f.w
  let n := EWidth.bytes f.w
  let covers (k a : Nat) : Prop := winAddr s (place k) ≤ a ∧ a < winAddr s (place k) + n
  s.cur.cut = none → s.tmem.wf → (∀ k ∈ on, OwnTile s (place k) n) →
    ∃ t, exec i s = .next t ∧ WentOn s t ∧ t.l2s = s.l2s ∧ (∀ a, (∀ k ∈ on, ¬ covers k a) → t.tmem.byte a = s.tmem.byte a) ∧
      ∀ k ∈ on, ∀ a, 8 ≤ w → covers k a → (∀ j ∈ on, covers j a → j = k) →
        t.tmem.byte a = BitVec.ofNat 8 (elemGet s.cur.lanes w (s.opV 1 f.rd) k / 2 ^ (8 * (a - winAddr s (place k))))

/-- The address of element `k` of an indexed instruction (R260). -/
def idxAddr (s : State) (f : VMem) (q : QReg) (k : Nat) : Nat :=
  let w := EWidth.bits f.w
  (q.base + f.disp.signExtend 64 +
    BitVec.ofNat 64 (groupGet s.cur.lanes 32 (s.opGroup 2 f.rs2 (max 1 (32 / w))) k * (w / 8))).toNat

/-- The active elements of a vector memory instruction (R258). -/
def onElems (s : State) (f : VMem) (n : Nat) : List Nat := activeElems s.cur.estart n (s.opM 0 f.vm.toNat)

end Sys2Proof.Claims

/-- R254, R255: `qset` and `qstr` write a stream register as the rule says and leave everything else, but that `qset` drops the
translations that the register held (R32); `qlen` and `qinfo` read one. -/
def Obligations.StreamRegisters : Prop :=
  ∀ (s : State) (qd a b : Reg) (z : EWidth) (chain : Bool) (sc : Scope) (sel : BitVec 2), qd.toNat < 16 →
    (s.badS false [a, b] = false →
      ∃ t, exec (.qset qd a b z chain sc) s = .next t ∧ WentOn s t ∧ OutsideKept s { t with tlb := s.tlb } ∧
        (∀ e ∈ t.tlb, e ∈ s.tlb ∧ e.stream ≠ some (16 * s.cur.slot + qd.toNat)) ∧ StreamKept qd.toNat [] s t ∧
        let q := t.cur.q.getD qd.toNat {}
        let base := s.opS 0 a
        (q.base = if chain ∧ bits base 0 16 < 128 then (base >>> 16 <<< 16) + 128 else base) ∧
        q.stride.toNat = (match z with
          | .x2 | .x4 => 0
          | .b => 1 | .h => 2 | .w => 4 | .d => 8) ∧
        q.count.toNat = (s.opS 1 b).toNat % 2 ^ 48 ∧ q.links = [] ∧ q.chain = chain ∧ q.bit = 0 ∧
        bits q.cfg 0 3 = (EWidth.code z).toNat ∧ bits q.cfg 13 3 = (Scope.code sc).toNat) ∧
    (s.badS false [a] = false →
      ∃ t, exec (.qstr qd a) s = .next t ∧ WentOn s t ∧ OutsideKept s t ∧ StreamKept qd.toNat [] s t ∧
        t.cur.q.getD qd.toNat {} = { s.cur.q.getD qd.toNat {} with stride := s.opS 0 a }) ∧
    Gives (.qlen a b) s a (BitVec.ofNat 64 ((s.opQ 0 b).count.toNat % 2 ^ 48)) ∧
    Gives (.qinfo a b sel) s a (
      let q := s.opQ 0 b
      if sel = 0 then q.base else if sel = 1 then q.stride else if sel = 2 then BitVec.ofNat 64 (q.count.toNat % 2 ^ 48)
      else q.cfg)

/-- R256, R258-R260, R34: vector loads complete. `n` is N of the instruction, smaller by the elements left in the stream for the
unit forms; a fault-only-first load that ends at element e shortens vl to e.
From tiles that the context holds they complete with the tiles' bytes (R25, R50).
That a load keeps its masked elements and clears those from N up is the model's reading of R258 (log 66). -/
def Obligations.VectorLoads : Prop :=
  ∀ (s : State) (f : VMem), Unmarked s.cur → s.cur.rpt = false → s.cur.redo = none → f.rs1.toNat < 16 →
    let w := EWidth.bits f.w
    let acq := f.ord == .acq
    let q := s.opQ 0 f.rs1
    let n := min (s.cur.count w) q.left
    let nx := s.cur.count w
    (n = 0 → OnlyAdvances (.vld f) s ∧ OnlyAdvances (.vldff f) s) ∧ (nx = 0 → OnlyAdvances (.vldx f) s) ∧
    (n ≠ 0 → ∀ es q' t0, s.probeAll q f.w (onElems s f n) .read = ((es, none), (q', t0)) →
      VLoads (.vld f) f acq true true (fun _ => []) n q' es none s t0 ∧
      (ffEnd es none = none → VLoads (.vldff f) f false true true (fun _ => []) n q' es none s t0) ∧
      ∀ e, ffEnd es none = some e →
        VLoads (.vldff f) f false true true (fun _ => []) (min e n) q' (es.filter fun x => x.i < e) (some e) s t0) ∧
    (nx ≠ 0 → ∀ es, s.probe (!q.chain) .read f.w (s.idxPlaces f q (onElems s f nx)) = (es, none) →
      VLoads (.vldx f) f acq false false (fun k => [s.cur.place f.rs2 32 k]) nx q es none s s) ∧
    (q.chain = false →
      (n ≠ 0 → VLoadsTile (.vld f) f (onElems s f n) (fun k => (q.place w k).1) s ∧
        VLoadsTile (.vldff f) f (onElems s f n) (fun k => (q.place w k).1) s) ∧
      (nx ≠ 0 → VLoadsTile (.vldx f) f (onElems s f nx) (idxAddr s f q) s))

/-- R256, R258, R260: vector stores complete, to every place that a translation or a window gives, and in particular to tiles that the
context holds (R25, R50). -/
def Obligations.VectorStores : Prop :=
  ∀ (s : State) (f : VMem), Unmarked s.cur → f.rs1.toNat < 16 →
    let w := EWidth.bits f.w
    let q := s.opQ 0 f.rs1
    let n := min (s.cur.count w) q.left
    let nx := s.cur.count w
    (n = 0 → OnlyAdvances (.vst f) s) ∧ (nx = 0 → OnlyAdvances (.vstx f) s) ∧
    (n ≠ 0 → ∀ es q' t0, s.probeAll q f.w (onElems s f n) .write = ((es, none), (q', t0)) →
      VStores (.vst f) f true n q' es s) ∧
    (nx ≠ 0 → ∀ es, s.probe (!q.chain) .write f.w (s.idxPlaces f q (onElems s f nx)) = (es, none) →
      VStores (.vstx f) f false nx q es s) ∧
    (q.chain = false →
      (n ≠ 0 → VStoresTile (.vst f) f (onElems s f n) (fun k => (q.place w k).1) s) ∧
      (nx ≠ 0 → VStoresTile (.vstx f) f (onElems s f nx) (idxAddr s f q) s))

namespace Sys2Proof.Claims

/-- The word in focus takes a cause on the service route (R355); a read that meets an error of a stored line has written its poison and
its log record first (R74). -/
def TakesCause (s : State) (code : Nat) (tval : Word) : Out := .next ((s.metCause code tval).serve code tval s.cur.pslot)

end Sys2Proof.Claims

/-- R31, R33, R253: a load or store whose address leads nowhere takes that cause before it changes anything, with the faulting
address in ctl.tval, and one that must wait holds issue; a vector load or store is probed whole first, and the lowest element that
has no place decides. The context is as the service route leaves it from the state before the word; only errors of stored lines that
the walks of the access met are corrected or have become poison, with their log records (R73, R74).
Which byte ctl.tval names when an access crosses pages, and which of two causes comes first, are the model's readings
(logs 6 and 7). -/
def Obligations.AccessFaultsFirst : Prop :=
  (∀ (s : State) (rd a : Reg) (z : LdSize) (y : StSize) (sc : Scope) (disp : BitVec 23) (at_ : Nat) (e : NoLoc),
    s.badS false [a, rd] = false →
    let addr := s.opS 0 a + disp.signExtend 64
    let stop : Out := match e with
      | .fault c k none => TakesCause (s.walked (if at_ = addr.toNat then [] else [at_])) (causeCode c 0 k) addr
      | .fault c k (some entry) => TakesCause (s.walked [addr.toNat, at_]) (causeCode c 0 k) (BitVec.ofNat 64 entry)
      | .wait => .next (s.mapCur fun c => { c with held := true, fate := .held })
    (s.locateAll true .read (pieces addr.toNat (LdSize.bytes z)) = .error (at_, e) → exec (.ld rd a z .plain sc disp) s = stop) ∧
    (s.locateAll true .write (pieces addr.toNat (StSize.bytes y)) = .error (at_, e) → exec (.st a rd y .plain sc disp) s = stop)) ∧
  ∀ (s : State) (f : VMem) (es : List VElem) (i c k a va : Nat), Unmarked s.cur → s.cur.rpt = false →
    let q := s.opQ 0 f.rs1
    let n := min (s.cur.count (EWidth.bits f.w)) q.left
    let stop := TakesCause (s.probed es c k a va) (causeCode c 2 k) (BitVec.ofNat 64 a)
    n ≠ 0 →
    ((s.probeAll q f.w (onElems s f n) .read).1 = (es, some (i, .fault c k a va)) → exec (.vld f) s = stop) ∧
    ((s.probeAll q f.w (onElems s f n) .write).1 = (es, some (i, .fault c k a va)) → exec (.vst f) s = stop)

/-! ### The matrix path -/

namespace Sys2Proof.Claims

/-- `t` but for the requests at the matrix queue and for what the context has paid there (R344), which are as in `s`. -/
def unasked (s t : State) : State := { t with asks := s.asks, cur := { t.cur with vtime := s.cur.vtime } }

/-- A matrix instruction completes when the queue accepts it (R285): one entry more, with the instruction, the grant, vl and tsh as
they stand, and nothing else of the context or outside it changed, but that its request is answered and its grant paid (R344). -/
def Queues (i : Instr) (s : State) (P : MEntry → Prop) : Prop :=
  ∃ t e, exec i s = .next t ∧ WentOn s t ∧ OutsideKept s (unasked s t) ∧ t.cur.mq = s.cur.mq ++ [e] ∧
    KeptBut [] s.cur { (unasked s t).cur with mq := s.cur.mq } ∧ e.body = i ∧ e.vl = s.cur.vl ∧ e.lanes = s.cur.lanes ∧
    e.tsh = s.cur.cr 9 ∧ P e

/-- A result of `mext` waits under its tag for its entry of the queue (R294, R168). -/
def QueuesTagged (i : Instr) (s : State) (reg : PReg) : Prop :=
  ∃ t e p, exec i s = .next t ∧ WentOn s t ∧ OutsideKept s (unasked s t) ∧ t.cur.mq = s.cur.mq ++ [e] ∧
    KeptBut [] s.cur { (unasked s t).cur with mq := s.cur.mq } ∧ e.body = i ∧ e.tag = s.cur.ctl.sa.toNat ∧
    t.cur.pend = s.cur.pend ++ [p] ∧ p.tag = s.cur.ctl.sa.toNat ∧ p.done = false ∧ p.vals.map (·.reg) = [reg]

/-- An element of the destination of an `mpm` after `n` blocks, and whether it has saturated (R288): `a` gives the activations of its row
and `w` the weights of its column, by block and place in it. -/
def mpmElem (e : MEntry) (blk : Bool) (a w : Nat → Nat → Nat) (old : Nat) : Nat → Nat × Bool
  | 0 => (old, false)
  | n + 1 =>
    let fa := tshA e.tsh
    let fw := tshW e.tsh
    let (x, sat) := mpmElem e blk a w old n
    let as := (List.range 32).map (a n)
    let ws := (List.range 32).map (w n)
    if blk then (blockSum (fpProducts fw.isInt fa fw as ws) % 2 ^ 32, sat)
    else if fw.isInt then
      let r := satAdd32 x (((as.zip ws).map fun p => intVal fa p.1 * intVal fw p.2).foldl (· + ·) 0)
      (r.1 % 2 ^ 32, sat || r.2)
    else (addF32 x (blockSum (fpProducts false fa fw as ws)) % 2 ^ 32, sat)

end Sys2Proof.Claims

/-- R285-R295: the matrix instructions whose operands are well formed and not poisoned are accepted where the queue has an entry for
their context, one granted to it or a free one that no other context waits for (R344); `mshape` writes tsh, `mfetch` records its rows,
and an `mpm` with FET consumes the oldest fetch. -/
def Obligations.MatrixIssue : Prop :=
  ∀ (s : State) (f : TR), Unmarked s.cur → s.entryFree = true →
    let c := s.cur
    let d := s.opS 0 f.rs1
    let sw := s.opS 1 f.rs2
    let nb := bits sw 32 17
    let g := groupCount (tshM (c.cr 9)) nb (tshA (c.cr 9)).bits c.lanes
    let rows := tshM (c.cr 9)
    (bits d 32 32 = 0 → d.getLsbD 6 = false → d.getLsbD 7 = false → bits d 8 8 ≤ 127 →
      ∃ t, exec (.mshape f) s = .next t ∧ WentOn s t ∧ OutsideKept s (unasked s t) ∧ KeptBut [.c 9] c (unasked s t).cur ∧
        bits (t.cur.cr 9) 0 32 = bits d 0 32 ∧ bits (t.cur.cr 9) 32 8 = (Ty.code f.ty).toNat ∧
        bits (t.cur.cr 9) 40 24 = (Ty.code f.ty2).toNat) ∧
    Queues (.mzero f) s (fun _ => True) ∧
    (c.tooWide = false →
      Queues (.mopa f) s (fun e => e.vecs = [s.opV 0 f.rs1, s.opV 1 f.rs2] ∧ e.mask = s.opM 2 f.vm.toNat) ∧
      Queues (.mscacc f) s (fun e => e.vecs = [s.opV 0 f.rs2, s.opV 1 f.rs3]) ∧
      (rowMisuse (c.cr 9) (s.opS 1 f.rs2) = false → Queues (.mins f) s (fun e => e.vecs = [s.opV 0 f.rs1] ∧ e.ops = [s.opS 1 f.rs2])) ∧
      (rowMisuse (c.cr 9) (s.opS 0 f.rs2) = false → c.ctl.sa ≠ 0 →
        QueuesTagged (.mext f) s (.v (c.vslot f.rd.toNat))) ∧
      (c.ctl.sa ≠ 0 → QueuesTagged (.mextFlags f) s (.m f.rd.toNat)) ∧
      ∀ blk, mpmWordOk sw = true → s.regionOk sw = true → (blk = true → nb = 1) →
        (blk = true → (tshW (c.cr 9)).isInt = true → tshW (c.cr 9) = .i8 ∧ tshA (c.cr 9) = .i8) →
        (g ≤ 8 → f.rs1.toNat + g ≤ 64 → Queues (.mpm blk false f) s (fun e => e.ops = [sw] ∧ e.fetch = none)) ∧
        ∀ h r, c.fetches = h :: r → h.rows = rows → h.nb = nb →
          ∃ t e, exec (.mpm blk true f) s = .next t ∧ WentOn s t ∧ OutsideKept s (unasked s t) ∧ t.cur.mq = c.mq ++ [e] ∧
            e.body = .mpm blk true f ∧ e.ops = [sw] ∧ e.fetch = some h ∧ t.cur.fetches = r ∧
            KeptBut [] c { (unasked s t).cur with mq := c.mq, fetches := c.fetches }) ∧
    ∀ vas ps u, let n := (s.opS 2 f.rs3).toNat
      1 ≤ n → n ≤ 65536 →
      fetchLineVas d (s.opS 1 f.rs2) rows (32 * n * (tshA (c.cr 9)).bits / 8) = some vas →
      vas.length + (c.fetches.map fun g => g.lines.length).sum ≤ 256 → s.pinLines vas = .ok (ps, u) →
      ∃ t e, exec (.mfetch f) s = .next t ∧ WentOn s t ∧ MemoryOnly s { t with cur := s.cur, asks := s.asks, serial := s.serial } ∧
        KeptBut [] (unheard c) { unheard (unasked s t).cur with fetches := c.fetches, mq := c.mq } ∧
        t.cur.mq = c.mq ++ [e] ∧ e.body = .mfetch f ∧ e.ops = [d, s.opS 1 f.rs2, s.opS 2 f.rs3] ∧ e.fid = some s.serial ∧
        t.cur.fetches = c.fetches ++ [{ rows := rows, nb := n, base := d, stride := s.opS 1 f.rs2
                                        width := (tshA (c.cr 9)).bits, lines := ps, id := s.serial }]

/-- R285-R290, R294: an operand that breaks one of the matrix path's checks takes operand misuse, 0x15A, and a queue without an entry
for the context holds issue, with its request waiting there (R344). A line of a fetch that leads nowhere is taken at issue with the
fetch's source, the lowest first (R31).
What ctl.tval then holds is free (log 15), and a misuse is answered after a window address and before any other fault (log 91). -/
def Obligations.MatrixMisuse : Prop :=
  ∀ (s : State) (f : TR), Unmarked s.cur →
    let misuse : Out := .next (s.serve 0x15A s.openTval s.cur.pslot)
    let waits (i : Instr) : Prop := ∃ t a, exec i s = .next t ∧ t.cur = { s.cur with held := true, fate := .held } ∧
      { t with cur := s.cur, asks := s.asks } = s ∧ a ∈ t.asks ∧ a.res = 1 ∧ a.slot = s.cur.slot ∧ ∀ b ∈ s.asks, b ∈ t.asks
    let c := s.cur
    let d := s.opS 0 f.rs1
    let sw := s.opS 1 f.rs2
    let nb := bits sw 32 17
    let M := tshM (c.cr 9)
    let row (x : Word) : Prop := bits x 6 58 ≠ 0 ∨ M ≤ bits x 0 6
    let owner := (s.tile c.cluster (bits sw 0 7)).owner
    let g := groupCount M nb (tshA (c.cr 9)).bits c.lanes
    (bits d 32 32 ≠ 0 ∨ bits d 6 2 ≠ 0 ∨ 127 < bits d 8 8 → exec (.mshape f) s = misuse) ∧
    (row (s.opS 0 f.rs2) → exec (.mext f) s = misuse) ∧ (row (s.opS 1 f.rs2) → exec (.mins f) s = misuse) ∧
    (∀ blk fet, (4 * c.lanes < tshN (c.cr 9) ∨ bits sw 7 9 ≠ 0 ∨ bits sw 49 15 ≠ 0 ∨ nb = 0 ∨ 65536 < nb ∨
        s.regionAt c.cluster (bits sw 0 7) = none ∨ tileKind owner ≠ 3 ∨ tileNode owner ≠ c.slot ∨
        (∃ r, s.regionAt c.cluster (bits sw 0 7) = some r ∧
          (r.fw ≠ bits (c.cr 9) 32 5 ∨ r.cols ≠ tshN (c.cr 9) ∨ r.blocks ≠ tshK (c.cr 9))) ∨
        tshK (c.cr 9) < bits sw 16 16 + nb ∨ (blk = true ∧ nb ≠ 1) ∨
        (blk = true ∧ (tshW (c.cr 9)).isInt = true ∧ ¬ (tshW (c.cr 9) = .i8 ∧ tshA (c.cr 9) = .i8)) ∨
        (fet = false ∧ (8 < g ∨ 64 < f.rs1.toNat + g)) ∨ (fet = true ∧ c.fetches = []) ∨
        (fet = true ∧ ∃ h r, c.fetches = h :: r ∧ (h.rows ≠ M ∨ h.nb ≠ nb)) →
      exec (.mpm blk fet f) s = misuse)) ∧
    (let n := (s.opS 2 f.rs3).toNat
     let bytes := 32 * n * (tshA (c.cr 9)).bits / 8
     (fetchLineVas d sw M bytes = none → s.fetchWindow d sw M bytes = none → exec (.mfetch f) s = misuse) ∧
     ∀ vas, fetchLineVas d sw M bytes = some vas →
      (n = 0 ∨ 65536 < n ∨ 256 < vas.length + (c.fetches.map fun g => g.lines.length).sum →
        (∀ v ∈ vas, windowed v.2 = false) → exec (.mfetch f) s = misuse) ∧
      ∀ v r, vas = v :: r →
        (windowed v.2 = true → exec (.mfetch f) s = TakesCause s (causeCode 1 3 7) (BitVec.ofNat 64 v.2)) ∧
        (windowed v.2 = false → 1 ≤ n → n ≤ 65536 → vas.length + (c.fetches.map fun g => g.lines.length).sum ≤ 256 →
          ∀ l pa, s.locateAll false .read [(v.2, 1)] = .ok [(v.2, 1, .page l pa)] →
          region pa ≠ .fast ∨ l.ca = 2 → exec (.mfetch f) s = TakesCause s (causeCode 2 3 3) (BitVec.ofNat 64 v.2))) ∧
    (s.cur.tooWide = true → ∀ i ∈ [Instr.mopa f, .mscacc f, .mins f, .mext f, .mextFlags f, .mld f, .mst f], exec i s = misuse) ∧
    (s.entryFree = false → waits (.mzero f)) ∧
    (s.entryFree = false → s.cur.tooWide = false → waits (.mopa f) ∧ waits (.mscacc f))

/-- R294-R296, R285: with an empty queue and SA = 0, `mext` and `mext.flags` deliver their result before the next word; `mld` and
`mst` act once the queue has run, to every place that a translation or a window gives, and in particular in tiles of the scratchpad
that the context holds (R25, R50). Other tiles and registers are as they were.
That `mld` and `mst` act within their own step is the model's reading (log 54), and row elements past the lanes are free (log 14). -/
def Obligations.MatrixResults : Prop :=
  ∀ (s : State) (f : TR), Unmarked s.cur → s.entryFree = true → s.cur.mq = [] → s.cur.status ≠ .idle → s.cur.tooWide = false →
    let c := s.cur
    let tileKept (t : State) : Prop := KeptBut [] (unheard c) { unheard (unasked s t).cur with t := c.t } ∧
      ∀ k, k ≠ f.rd.toNat → t.cur.t.getD k {} = c.t.getD k {}
    let places := tilePlaces (c.cr 9) (s.opS 0 f.rs1) (s.opS 1 f.rs2)
    (c.ctl.sa = 0 → rowMisuse (c.cr 9) (s.opS 0 f.rs2) = false →
      let e := { c.entry (.mext f) [s.opS 0 f.rs2] [] (s.opM 2 f.vm.toNat) with mode := c.mode f.rm }
      let v := c.vslot f.rd.toNat
      let r := mextVec e f (s.opT 0 f.rs1.toNat) (c.v.getD v 0)
      r.2 = false → v < 64 →
      ∃ t, exec (.mext f) s = .next t ∧ WentOn s t ∧ OutsideKept s (unasked s t) ∧
        KeptBut [.v v, .c 14] c (unasked s t).cur ∧ t.cur.v.getD v 0 = r.1.1 ∧
        t.cur.cr 14 = c.cr 14 ||| r.1.2.setWidth 64) ∧
    (c.ctl.sa = 0 → f.rd.toNat < 16 →
      ∃ t, exec (.mextFlags f) s = .next t ∧ WentOn s t ∧ OutsideKept s (unasked s t) ∧
        KeptBut [.m f.rd.toNat] c (unasked s t).cur ∧
        (f.rd ≠ 0 → t.cur.m.getD f.rd.toNat 0 = ((s.opT 0 f.rs1.toNat).flags).setWidth 8192)) ∧
    (∀ es, s.probe true .read .w places = (es, none) →
      ∃ t, exec (.mld f) s = .next t ∧ WentOn s t ∧ MemoryOnly s { t with cur := s.cur, asks := s.asks } ∧ tileKept t) ∧
    (∀ es, s.probe true .write .w places = (es, none) →
      ∃ t, exec (.mst f) s = .next t ∧ WentOn s t ∧ MemoryOnly s (withWindows s { t with cur := s.cur, asks := s.asks }) ∧
        ContextKept [] s (unasked s t) ∧
        let u := s.opT 0 f.rd.toNat
        let val (i : Nat) : Nat := u.get c.lanes (i / tshN (c.cr 9)) (i % tshN (c.cr 9))
        (s.tmem.wf → s.l2s.wf → ElemsStored es 32 val s t) ∧ LineStored es val s (s.takeEntry.useAll .write (allPieces es)) t) ∧
    let rows := tshM (c.cr 9)
    let cols := tshN (c.cr 9)
    let place (m n : Nat) : Nat := (s.opS 0 f.rs1 + BitVec.ofNat 64 m * s.opS 1 f.rs2 + BitVec.ofNat 64 (4 * n)).toNat
    f.rd.toNat < 8 → s.tmem.wf → (∀ m < rows, ∀ n < cols, OwnTile s (place m n) 4) →
      (∃ t, exec (.mld f) s = .next t ∧ WentOn s t ∧ t.tmem = s.tmem ∧
        ∀ m < rows, ∀ n < cols, (t.cur.t.getD f.rd.toNat {}).get c.lanes m n = s.tmem.get (winAddr s (place m n)) 4) ∧
      let covers (m n a : Nat) : Prop := winAddr s (place m n) ≤ a ∧ a < winAddr s (place m n) + 4
      ∃ t, exec (.mst f) s = .next t ∧ WentOn s t ∧ t.l2s = s.l2s ∧
        (∀ a, (∀ m < rows, ∀ n < cols, ¬ covers m n a) → t.tmem.byte a = s.tmem.byte a) ∧
        ∀ m < rows, ∀ n < cols, ∀ a, covers m n a → (∀ i < rows, ∀ j < cols, covers i j a → i = m ∧ j = n) →
          t.tmem.byte a = BitVec.ofNat 8 ((s.opT 0 f.rd.toNat).get c.lanes m n / 2 ^ (8 * (a - winAddr s (place m n))))

/-- R285, R287, R297: the oldest entry of a context's queue finishes when the matrix path is done with it: it leaves the queue, and
its tile becomes what its instruction makes of it, or its waiting result what it extracts (R294); other tiles stay. An `mfetch` leaves
it once its lines have room (R290), and its fetch stays. An `mpm` gives each
element its blocks in order (R288) and carries the poison of what it reads (R282); one that meets a poisoned line of its fetch stops
before that row, with its place in mprog and its cause posted (R291). The tile fetch unit reads one line of a fetch at a time (R291), for
the context whose turn it is (R344). A source tile that a word used for the last time may read zero (R172).
Row elements of `mopa` past the lanes are a free value (log 14). -/
def Obligations.MatrixQueueRuns : Prop :=
  ∀ (s : State) (e : MEntry) (r : List MEntry), s.cur.status = .running → s.cur.mq = e :: r →
    (∀ h, e.fetch = some h → h.whole = true ∧ s.winner 4 (s.fetching s.cur.cluster) ≠ some s.cur.slot) →
    s.fetchRoom s.cur e = true → s.cur.mstopped = false →
    let ends (k : Nat) (u : TReg) : Prop := k < 8 →
      ∃ t, exec (.matrixEntryComplete s.cur.slot) s = .next t ∧ t.cur.mq = r ∧ OutsideKept s t ∧ t.cur.t.getD k {} = u ∧
        (∀ j, j ≠ k → t.cur.t.getD j {} = s.cur.t.getD j {}) ∧ KeptBut [] s.cur { t.cur with mq := s.cur.mq, t := s.cur.t } ∧
        t.cur.pc = s.cur.pc
    let src (j : Nat) (k : Reg) : TReg := ({ s.cur with mq := r } : Ctx).tileSrc s.nd e j k.toNat
    let delivers (x : Nat) (fl : Flags) (late : Option CauseVal) : Prop :=
      ∃ t, exec (.matrixEntryComplete s.cur.slot) s = .next t ∧ t.cur.mq = r ∧ OutsideKept s t ∧ t.cur.t = s.cur.t ∧
        KeptBut [] s.cur { t.cur with mq := s.cur.mq } ∧
        t.cur.pend = s.cur.pend.map fun (p : Pending) => if p.tag = e.tag ∧ p.done = false then
          { p with done := true, flags := fl, late := late, vals := p.vals.map fun (v : RegVal) => { v with val := x } } else p
    (∀ k, e.last = [] → src 0 k = s.cur.t.getD k.toNat {} ∧ src 1 k = s.cur.t.getD k.toNat {} ∧
      s.cur.tileSrc s.nd e 0 k.toNat = s.cur.t.getD k.toNat {}) ∧
    (∀ f, e.body = .mfetch f → ∃ t, exec (.matrixEntryComplete s.cur.slot) s = .next t ∧ OutsideKept s t ∧ t.cur.mq = r ∧
      KeptBut [] s.cur { t.cur with mq := s.cur.mq }) ∧
    (∀ f, e.body = .mzero f → ends f.rd.toNat {}) ∧
    (∀ f, e.body = .mopa f → ends f.rd.toNat (mopaTile s.nd e f.ty (src 0 f.rd))) ∧
    (∀ f, e.body = .mscacc f → ends f.rd.toNat (mscaccTile e (src 0 f.rd) (src 1 f.rs1))) ∧
    (∀ f, e.body = .mins f → ends f.rd.toNat (minsTile e f (src 0 f.rd))) ∧
    (∀ f, e.body = .mext f →
      let old := (s.cur.pend.find? fun p => p.tag == e.tag).bind fun p => p.vals.head?
      let x := mextVec e f (src 1 f.rs1) (BitVec.ofNat 16384 ((old.map fun v => v.val).getD 0))
      delivers x.1.1.toNat x.1.2 (if x.2 then some { code := 0x0DC, tval := Config.word s.nd 77 } else none)) ∧
    (∀ f, e.body = .mextFlags f → delivers (s.cur.t.getD f.rs1.toNat {}).flags.toNat 0 none) ∧
    (∀ blk fet f g, e.body = .mpm blk fet f →
      let sw := e.ops.getD 0 0
      let nb := bits sw 32 17
      let M := tshM e.tsh
      let N := tshN e.tsh
      let L := e.lanes
      let W (b i n : Nat) : Nat × Bool := s.weight g (tshW e.tsh).bits (bits sw 16 16 + b) i n
      let A (m b i : Nat) : Nat := match e.fetch with
        | some h => h.elem m (32 * b + i)
        | none =>
          let w := (tshA e.tsh).bits
          let k := m * 32 * nb + 32 * b + i
          elemGet L w (e.vecs.getD (k / (512 * L / w)) 0) (k % (512 * L / w))
      let bad (b m : Nat) : Option Nat := e.fetch.bind fun h => h.poisonAt m b
      s.regionAt s.cur.cluster (bits sw 0 7) = some g → (s.cur.cr 8).getLsbD 63 = false → f.rd.toNat < 8 → L ≤ 32 → N ≤ 4 * L →
      nb ≤ 65536 → (blk = true → nb = 1) →
      let old := s.cur.tileSrc s.nd e 0 f.rd.toNat
      let cell (m n : Nat) : Nat × Bool := mpmElem e blk (A m) (fun b i => (W b i n).1) (old.get L m n) nb
      ((∀ b < nb, ∀ m < M, bad b m = none) →
        ∃ t, exec (.matrixEntryComplete s.cur.slot) s = .next t ∧ t.cur.mq = r ∧ OutsideKept s t ∧ t.cur.cr 8 = 0 ∧
          KeptBut [.c 8] s.cur { t.cur with mq := s.cur.mq, t := s.cur.t } ∧
          (∀ j, j ≠ f.rd.toNat → t.cur.t.getD j {} = s.cur.t.getD j {}) ∧
          let new := t.cur.t.getD f.rd.toNat {}
          (∀ m < 64, new.flags.getLsbD m = (old.flags.getLsbD m || (decide (m < M) && (List.range N).any fun n => (cell m n).2))) ∧
          ∀ m < 64, ∀ n < 4 * L, if m < M ∧ n < N then
              new.get L m n = (cell m n).1 ∧ new.bad L m n =
                ((List.range nb).any (fun b => (List.range 32).any fun i => (W b i n).2) || (!blk && old.bad L m n))
            else new.get L m n = old.get L m n ∧ new.bad L m n = old.bad L m n) ∧
      ∀ b < nb, ∀ m < M, ∀ va, bad b m = some va → (∀ i < nb, ∀ j < M, i < b ∨ i = b ∧ j < m → bad i j = none) →
        ∃ t, exec (.matrixEntryComplete s.cur.slot) s = .next t ∧ OutsideKept s t ∧
          t.cur.mq = ({ s.cur with mq := e :: r } : Ctx).unpin.mq ∧ t.cur.fetches = s.cur.unpin.fetches ∧
          (∀ i < M, ∀ n < N, (t.cur.t.getD f.rd.toNat {}).get L i n =
            (mpmElem e blk (A i) (fun b j => (W b j n).1) (old.get L i n) (if i < m then b + 1 else b)).1) ∧
          bits (t.cur.cr 8) 63 1 = 1 ∧ bits (t.cur.cr 8) 32 16 = b ∧ bits (t.cur.cr 8) 0 6 = m ∧
          t.cur.posted = s.cur.posted ++ [{ code := 0x0D8, tval := BitVec.ofNat 64 (128 * va), unit := 3, tiles := [f.rd.toNat] }] ∧
          KeptBut [.c 8] s.cur { t.cur with mq := s.cur.mq, t := s.cur.t, fetches := s.cur.fetches, posted := s.cur.posted }) ∧
    (e.fetch = none → (∀ x ∈ r, x.fetch = none) → s.others = [] → ∀ g, s.cur.fetches = [g] → g.whole = false → s.mayPin s.cur.cluster g = true →
      ∀ g' u, s.fetchNext s.cur.cluster g = some (g', u) → u.cur = s.cur → u.others = s.others →
      ∃ t, exec (.tileFetchLineRead s.cur.slot) s = .next t ∧ t.cur.fetches = [g'] ∧ t.cur.pc = s.cur.pc ∧
        t.cur.mq = s.cur.mq ∧ t.tmem = u.tmem ∧ t.mem = u.mem)

/-! ### Atomics, fences and maintenance -/

namespace Sys2Proof.Claims

/-- An atomic of `n` bytes at the aligned address of `addr` completes (R261, R262): the old bytes, extended, become the result, `op`
says what is written, and in a tile or the scratch nothing but those bytes changes. -/
def AtomicAt (i : Instr) (addr : Word) (n : Nat) (rd : Reg) (ord : MemOrd) (sc : Scope) (famo : Bool)
    (op : Nat → Option (Nat × Flags)) (ext : Nat → Word) (ops : List Word) (s : State) : Prop :=
  let c := s.cur
  let va := addr.toNat / n * n
  ∀ loc, s.locate c.cluster c.part c.asid c.slot true va .write = .ok loc → badPlace sc famo loc = false → onDevice loc = false →
    let sc' := scopeOf s sc
    let u := (s.demote sc).2
    let u := (if ord = .rel ∨ ord = .ar then u.release sc' else u).useAll .write [(va, n, loc)]
    let r := (u.rmw c.cluster c.hart sc' loc n op).1
    r.2.1 = false →
    ∃ t, exec i s = .next t ∧ WentOn s t ∧ MemoryOnly s (withWindows s { t with cur := s.cur }) ∧
      (if c.ctl.sa = 0 then
        t.cur.regVal (.s rd.toNat) = (if rd = 0 then 0 else (ext r.1).toNat) ∧
          t.cur.cr 14 = c.cr 14 ||| r.2.2.setWidth 64 ∧ ContextKept ([.c 14, .c 21] ++ scalarDst rd) s t
      else
        t.cur.pend = c.pend ++ [{ tag := c.ctl.sa.toNat, word := c.pc, slot := c.pslot, done := false
                                  vals := [{ reg := .s rd.toNat, val := (ext r.1).toNat }], flags := r.2.2, ops := ops
                                  pass := c.pass, reset := (c.redo.map (·.reset)).getD false }] ∧
          ContextKept [.c 21] s t) ∧
      match loc with
      | .tile tl off => s.tmem.wf → t.l2s = s.l2s ∧
        let A := tileAddr c.cluster tl off
        r.1 = s.tmem.get A n ∧ ∀ a, t.tmem.byte a = if A ≤ a ∧ a < A + n then
          (match op r.1 with
            | some x => BitVec.ofNat 8 (x.1 / 2 ^ (8 * (a - A)))
            | none => s.tmem.byte a) else s.tmem.byte a
      | _ => t.tmem = s.tmem

end Sys2Proof.Claims

namespace Sys2Proof.Claims

/-- An atomic in a tile that the context holds completes (R25, R45): it returns the tile's old bytes and writes the new ones. -/
def AtomicTile (i : Instr) (addr : Word) (n : Nat) (rd : Reg) (new : Nat → Option Nat) (ext : Nat → Word) (s : State) : Prop :=
  let va := addr.toNat / n * n
  let A := winAddr s va
  let old := s.tmem.get A n
  CleanTile s va n → s.tmem.wf →
    ∃ t, exec i s = .next t ∧ WentOn s t ∧
      (s.cur.ctl.sa = 0 → t.cur.regVal (.s rd.toNat) = if rd = 0 then 0 else (ext old).toNat) ∧
      ∀ a, t.tmem.byte a = if A ≤ a ∧ a < A + n then
        (match new old with
          | some x => BitVec.ofNat 8 (x / 2 ^ (8 * (a - A)))
          | none => s.tmem.byte a) else s.tmem.byte a

end Sys2Proof.Claims

/-- R261, R262: every atomic, at every place that supports it, reads the old value, writes the new one and returns the old one;
`amocas` writes only where the old value is the expected one, and `famo.add` rounds an FP32 sum to nearest. In a tile that the context
holds (R25, R45) each completes. -/
def Obligations.AtomicResults : Prop :=
  ∀ (s : State) (f : Amo) (rd a b d : Reg) (dbl : Bool) (ord : MemOrd) (sc : Scope) (d17 : BitVec 17) (d23 : BitVec 23),
    let n := if f.dbl then 8 else 4
    let x := (s.opS 1 f.rs2).toNat % 2 ^ (8 * n)
    let num (k : Nat) : Int := toSigned (8 * n) k
    let of (i : Instr) (op : Nat → Nat) : Prop :=
      let a := s.opS 0 f.rs1 + f.disp.signExtend 64
      AtomicAt i a n f.rd f.ord f.sc false
        (fun old => some (op old % 2 ^ (8 * n), 0)) (fun old => BitVec.ofInt 64 (num old)) [s.opS 0 f.rs1, s.opS 1 f.rs2] s ∧
      AtomicTile i a n f.rd (fun old => some (op old % 2 ^ (8 * n))) (fun old => BitVec.ofInt 64 (num old)) s
    (s.badS false [f.rs1] = false → s.badS (!f.dbl) [f.rs2] = false →
      of (.amoAdd f) (fun old => old + x) ∧ of (.amoAnd f) (fun old => old &&& x) ∧ of (.amoOr f) (fun old => old ||| x) ∧
      of (.amoXor f) (fun old => old ^^^ x) ∧ of (.amoMin f) (fun old => if num x < num old then x else old) ∧
      of (.amoMax f) (fun old => if num old < num x then x else old) ∧ of (.amoSwap f) (fun _ => x)) ∧
    (s.badS false [a] = false → s.badS (!dbl) [b, d] = false →
      let n := if dbl then 8 else 4
      let at_ := s.opS 0 a + d17.signExtend 64
      let new (old : Nat) : Option Nat :=
        if old = (s.opS 1 b).toNat % 2 ^ (8 * n) then some ((s.opS 2 d).toNat % 2 ^ (8 * n)) else none
      AtomicAt (.amocas rd a b d dbl ord sc d17) at_ n rd ord sc false (fun old => (new old).map fun x => (x, 0))
        (fun old => BitVec.ofInt 64 (toSigned (8 * n) old)) [s.opS 0 a, s.opS 1 b, s.opS 2 d] s ∧
      AtomicTile (.amocas rd a b d dbl ord sc d17) at_ n rd new (fun old => BitVec.ofInt 64 (toSigned (8 * n) old)) s) ∧
    (s.badS false [a] = false → s.badS true [b] = false →
      let sum (old : Nat) : Nat × Flags := addFp fmtF32 .rne (decodeFp fmtF32 old) (decodeFp fmtF32 ((s.opS 1 b).toNat % 2 ^ 32))
      AtomicAt (.famoAdd rd a b ord sc d23) (s.opS 0 a + d23.signExtend 64) 4 rd ord sc true (fun old => some (sum old))
        (BitVec.ofNat 64) [s.opS 0 a, s.opS 1 b] s ∧
      AtomicTile (.famoAdd rd a b ord sc d23) (s.opS 0 a + d23.signExtend 64) 4 rd (fun old => some (sum old).1) (BitVec.ofNat 64) s)

/-- R116, R44: a fence performs every earlier access at its scope and serves later reads at it: at .c or wider no line of the hart's
L1 is left, and at .d or wider every line of the cluster cache is stale and none holds a write of the hart. R125, R126, R263:
`fence.b` completes when no bank command of the context is out and no posted cause waits, and no `cln.r` of it is then incomplete.
The order of the write and the fence at a release is the model's reading (log 68). -/
def Obligations.FenceResults : Prop :=
  (∀ (s : State) (sc : Scope),
    ∃ t, exec (.fence sc) s = .next t ∧ WentOn s t ∧ MemoryOnly s { t with cur := s.cur } ∧ ContextKept [.c 21] s t ∧
      (sc ≠ .h → ∀ c ∈ t.l1, c.owner ≠ l1Owner s.cur.cluster s.cur.hart) ∧
      (sc = .d ∨ sc = .v ∨ sc = .s → ∀ c ∈ t.cc, c.owner = s.cur.cluster →
        c.stale = true ∧ c.writers.getLsbD s.cur.hart = false) ∧
      (sc = .h → OnlyAdvances (.fence sc) s)) ∧
  ∀ (s : State), s.cur.status ≠ .idle → s.bank = [] → (s.cur.posted.any fun p => p.unit == 5) = false →
    ∃ t, exec .fenceB s = .next t ∧ WentOn s t ∧ MemoryOnly s { t with cur := s.cur } ∧ t.cur.cleans = [] ∧
      KeptBut [] (unheard s.cur) { unheard t.cur with cleans := s.cur.cleans }

namespace Sys2Proof.Claims

/-- An address below the windows translates for an access of the context (R20): the walk finds a leaf that permits it, no cache holds an
older translation of its page (R22), its page is not being moved (R35), and it leads to no device register, which takes no maintenance
(R383). -/
def Mapped (s : State) (va : Nat) (acc : Acc) (l : Leaf) : Prop :=
  va < windowBase ∧ s.walk s.cur.part s.cur.asid va acc = .leaf l ∧ l.m = false ∧ region (l.pa va) ≠ .device ∧
    s.oldLeaves s.cur.cluster s.cur.part s.cur.asid va acc = []

end Sys2Proof.Claims

/-- R264, R265: maintenance of a range whose pages translate touches the memory system alone, changes no register, and the forms
that drop lines leave none of the range in the cluster's cache. A range whose pages the walk of R20 finds, with no older translation
in a cache and no page in migration, is such a range, so that each form completes there; so does each on a range of no bytes, which
touches nothing.
What a discarded line reads as is a free choice (log 72), and so is whether a `cln.r` has completed before a fence (log 90). -/
def Obligations.MaintenanceResults : Prop :=
  ∀ (s : State) (a b : Reg), s.badS false [a, b] = false →
    let x := (s.opS 0 a).toNat
    let len := min (s.opS 1 b).toNat (2 ^ 32)
    let done (i : Instr) (acc : Acc) (drop : Bool) : Prop :=
      ∀ ps, s.rangeLeaves acc (rangePages x len) = .ok ps →
        ∃ t, exec i s = .next t ∧ WentOn s t ∧ MemoryOnly s { t with cur := s.cur } ∧
          KeptBut [] (unheard s.cur) { unheard t.cur with cleans := s.cur.cleans } ∧ (drop = true → t.cur.cleans = s.cur.cleans) ∧
          (drop = true → ∀ l ∈ rangeLines x len ps, ∀ c ∈ t.cc, ¬ (c.owner = s.cur.cluster ∧ c.line = l.1))
    let runs (i : Instr) (acc : Acc) : Prop :=
      ((∀ va ∈ rangePages x len, ∃ l, Mapped s va acc l) → ∃ t, exec i s = .next t ∧ WentOn s t) ∧
        (s.opS 1 b = 0 → OnlyAdvances i s)
    runs (.clnR a b) .read ∧ runs (.cinvR a b) .write ∧ runs (.invR a b) .write ∧ runs (.discR a b) .discard ∧
    done (.clnR a b) .read false ∧ done (.cinvR a b) .write true ∧ done (.invR a b) .write true ∧
      done (.discR a b) .discard true

/-! ### History streams -/

namespace Sys2Proof.Claims

/-- A history load completes (R268, R269, R396): its scalar result, and hs where it writes it, pend under SA or stand in their
registers before the next word, and nothing but the memory system changes besides. -/
def HistGives (i : Instr) (s : State) (reg : PReg) (val : Nat) (hs : Option Nat) (ops : List Word) : Prop :=
  let regs := reg :: (if hs.isSome then [.c 7] else [])
  ∃ t, exec i s = .next t ∧ WentOn s t ∧ MemoryOnly s { t with cur := s.cur } ∧
    if s.cur.ctl.sa = 0 then
      (reg ≠ .s 0 → t.cur.regVal reg = val) ∧ (∀ x, hs = some x → t.cur.cr 7 = BitVec.ofNat 64 x) ∧
        ContextKept (regs.filter (· != .s 0)) s t
    else
      ContextKept [] s t ∧ ∃ p, t.cur.pend = s.cur.pend ++ [p] ∧ p.tag = s.cur.ctl.sa.toNat ∧ p.late = none ∧ p.ops = ops ∧
        p.vals.map (fun v => (v.reg, v.val)) = (reg, val) :: (match hs with
          | some x => [(PReg.c 7, x)]
          | none => [])

end Sys2Proof.Claims

namespace Sys2Proof.Claims

/-- The lines of DRAM that an item of a stream at `a` lies in (R84). -/
def itemLines (h : HStream) (a : Nat) : List Nat :=
  (pieces a h.isz).filterMap fun q => (leafAt h.pages q.1).map fun l => l.pa q.1 / 128

/-- The line of a descriptor that the Kneader writes: HEAD, MCNT, HSTATE and the counts (R81). -/
def descLine (h : HStream) : Nat := h.pa / 128 + 1

/-- A stream's descriptor and the place of an item at `a` stand in captured pages without D, apart from each other, the item aligned
(R81-R84), and no line of the item is poisoned or holds an error (R73). -/
def ItemPlace (s : State) (h : HStream) (a : Nat) : Prop :=
  h.va.toNat % 256 = 0 ∧ (∃ l, leafAt h.pages h.va.toNat = some l ∧ l.d = false) ∧ h.isz ≤ 256 ∧ a % h.isz = 0 ∧
    (∀ q ∈ pieces a h.isz, ∃ l, leafAt h.pages q.1 = some l ∧ l.d = false) ∧ (itemLines h a).Nodup ∧
    (∀ x ∈ itemLines h a, x ≠ descLine h ∧ s.mem.poisoned x = false) ∧ s.latent = []

/-- The stream's fields after a step: HEAD, MCNT and the count of each level. -/
def StreamFields (h : HStream) (head mcnt : Nat) (cnt : Nat → Nat) (t : State) : Prop :=
  t.hHead h = head % 2 ^ 48 ∧ t.hMcnt h = mcnt % 2 ^ 64 ∧ ∀ k < 16, t.hCnt h k = cnt k % 2 ^ 32

/-- Every item of the stream reads as before, but for one at a line that the step wrote. -/
def ItemsKept (h : HStream) (lines : List Nat) (s t : State) : Prop :=
  ∀ b, (∀ x ∈ itemLines h b, x ∉ lines ∧ x ≠ descLine h) → t.pageGet h.pages b h.isz = s.pageGet h.pages b h.isz

/-- An item is appended to a stream (R86): it stands at level 0 under the index that HEAD was, zero from its last element up, and HEAD
and the count of level 0 have moved on. -/
def Appended (h : HStream) (item : Nat) (s t : State) : Prop :=
  let a := h.slotVa 0 (s.hHead h)
  ItemPlace s h a →
    t.hItem h 0 (s.hHead h) = .ok (item % 2 ^ (h.ecnt * h.ty.bits) % 2 ^ (8 * h.isz)) ∧
    StreamFields h (s.hHead h + 1) (s.hMcnt h) (fun k => if k = 0 then s.hCnt h 0 + 1 else s.hCnt h k) t ∧
    ItemsKept h (itemLines h a) s t

end Sys2Proof.Claims

/-- R267, R86, R97: `happ` appends its item to a stream with room where no older append waits, and otherwise stalls, behind the older
ones, unless the stream is full and merge-faulted, recording when it began to wait; while its append is stalled it holds issue. -/
def Obligations.HistoryAppend : Prop :=
  ∀ (s u : State) (a b : Reg) (h : HStream), Unmarked s.cur → s.nameStream (s.opS 0 a).toNat = (.stream h, u) →
    h.ecnt ≤ s.cur.lanes * 512 / h.ty.bits →
    let waiting : Prop := s.cur.held = true ∧ ∃ g q, s.stalledOf s.cur.slot = some (g, q) ∧ q.node = false
    (waiting → exec (.happ a b) s = .next (s.mapCur fun c => { c with held := true, fate := .held })) ∧
    (¬ waiting → s.hFull h = false → h.stalled = [] →
      ∃ t, exec (.happ a b) s = .next t ∧ WentOn s t ∧ MemoryOnly s { t with cur := s.cur } ∧ ContextKept [] s t ∧
        t.streams = s.streams ∧ { t with cur := s.cur } = { u.append h (s.happItem h b) with cur := s.cur } ∧
        Appended h (s.happItem h b) u t) ∧
    (¬ waiting → (s.hFull h = true ∨ h.stalled ≠ []) → (s.hFull h = false ∨ s.hMf h = false) → h ∈ s.streams →
      ∃ t, exec (.happ a b) s = .next t ∧ t.cur.fate = .held ∧ t.cur.pc = s.cur.pc ∧ ContextKept [] s t ∧
        ∃ g ∈ t.streams, { slot := s.cur.slot, node := false, time := s.time, item := s.happItem h b, va := s.opS 0 a : Stall } ∈ g.stalled)

/-- R268, R269: the history loads complete with the item at the requested resolution, and hs says what was delivered; `hstat` reads
HEAD, MCNT, STATE or a level's count and leaves hs. A load that runs again writes the slot that its first issue resolved (R228), and
its reads have met the errors of the stored lines (R74).
That a history load acts at its issue is the model's reading (log 54). -/
def Obligations.HistoryLoads : Prop :=
  ∀ (s u : State) (rd a b : Reg) (h : HStream) (res lev : BitVec 4) (e : BitVec 8) (sel : BitVec 2) (x hs : Nat),
    s.badS false [a, b] = false → s.nameStream (s.opS 0 a).toNat = (.stream h, u) → hs < 2 ^ 64 →
    let c := s.cur
    let w := h.ty.bits
    let n := c.vslot rd.toNat
    let v := (u.descMeet h).pageMeet h.pages (s.hReads h (s.opS 1 b).toNat res.toNat)
    n < 64 →
    (v.histLoad h (s.opS 0 a).toNat (s.opS 1 b).toNat res.toNat = .ok (x, hs) →
      (e.toNat < h.ecnt →
        HistGives (.hld rd a b res e) s (.s rd.toNat) (h.elemWord x e.toNat).toNat (some hs) [s.opS 0 a, s.opS 1 b]) ∧
      (c.lanes ≠ 0 → h.ecnt ≤ c.lanes * 512 / w →
        ∃ v, HistGives (.hldv rd a b res) s (.v n) v (some hs) [s.opS 0 a, s.opS 1 b] ∧
          ∀ j < c.lanes * 512 / w, elemGet c.lanes w (BitVec.ofNat 16384 v) j = if j < h.ecnt then h.elem x j % 2 ^ w else 0)) ∧
    (¬ (sel = 3 ∧ h.nlev < lev.toNat) → s.hHead h < 2 ^ 64 → s.hMcnt h < 2 ^ 64 → s.hCnt h lev.toNat < 2 ^ 64 →
      HistGives (.hstat rd a sel lev) s (.s rd.toNat)
        (if sel = 0 then s.hHead h else if sel = 1 then s.hMcnt h else if sel = 2 then (s.hState h).toNat else s.hCnt h lev.toNat)
        none [s.opS 0 a])

/-- R84, R94, R101, R370: registration adds the stream that its descriptor describes, which may commit from the time that its last
registration left, restart reads the combiner again, retirement removes the stream.
That a restarted stream keeps FLEV and FCAUSE is the model's choice (log 49). -/
def Obligations.HistoryConfig : Prop :=
  ∀ (s : State) (r : Reg), s.cur.super = true → s.badS false [r] = false →
    let a := s.opS 0 r
    let p := s.cur.part
    (∀ dp lp x y, a.toNat < windowBase → a.toNat % 256 = 0 →
      s.capture p s.cur.asid .read memorySide (spanPages a.toNat 256) = .ok dp →
      let v := s.pageMeet dp [((a.toNat : Int), 256)]
      v.pageGet dp a.toNat 128 = (x, none) → v.pageGet dp (a.toNat + 128) 128 = (y, none) →
      let h := streamOfDesc a p s.cur.asid (x + 2 ^ 1024 * y)
      let stks := ((dp ++ lp).map fun q => stackOf (q.2.pa (65536 * q.1))).eraseDups
      let g := { h with pages := dp ++ lp, stack := stks.headD 0 }
      let g := { g with commit := v.commitOf g.pa }
      (∀ q ∈ dp ++ lp, q.2.m = false) →
      h.lbase.toNat < windowBase → descOk (x + 2 ^ 1024 * y) = true →
      v.capture p s.cur.asid .read memorySide (spanPages h.lbase.toNat (levelBytes h.isz h.caps)) = .ok lp →
      stks.length = 1 → (s.streams.filter fun k => k.stack == g.stack).length < 256 → (s.streams.any fun k => k.pa == g.pa) = false →
      ∃ t, exec (.hcfgRegister r) s = .next t ∧ WentOn s t ∧ ContextKept [] s t ∧ t.streams = s.streams ++ [g] ∧
        MemoryOnly s { t with cur := s.cur, streams := s.streams }) ∧
    (∀ h u x y, s.nameStream a.toNat = (.stream h, u) →
      let v := s.pageMeet h.pages [(((h.va.toNat + 0x60 : Nat) : Int), 48)]
      v.pageGet h.pages (h.va.toNat + 0x60) 32 = (x, none) → v.pageGet h.pages (h.va.toNat + 0x80) 16 = (y, none) →
      let comb := toBytes (bits h.cfg 24 5) x
      postfixOk h.ty comb = true → comb.contains 3 = false →
      ∃ t, exec (.hcfgRestart r) s = .next t ∧ WentOn s t ∧ ContextKept [] s t ∧
        MemoryOnly s { t with cur := s.cur, streams := s.streams } ∧
        t.streams = s.streams.map fun g => if g.part == h.part && g.pa == h.pa then
          { g with comb := comb, consts := (List.range 4).map fun k => BitVec.ofNat 32 (y / 2 ^ (32 * k))
                   retry := if (v.hState h).getLsbD 1 then some (bits (v.hState h) 16 4) else h.retry } else g) ∧
    ∀ h u, s.nameStream a.toNat = (.stream h, u) → h.stalled = [] →
      ∃ t, exec (.hcfgRetire r) s = .next t ∧ WentOn s t ∧ ContextKept [] s t ∧
        MemoryOnly s { t with cur := s.cur, streams := s.streams, commits := s.commits } ∧
        t.streams = s.streams.filter fun g => !(g.part == h.part && g.pa == h.pa)

/-- R86, R87, R94, R96, R97, R270: what the Kneader does on its own. A merge that it may take puts the combined item of the two oldest
of a level into the next, an expiry drops the two oldest of the top level, and either counts a commit and forbids the stream another for
32 ck; a stalled append commits its item once level 0 has room, and its context goes on; a history node takes up its run and appends its
next item where no older append waits, and retires with its last.
How the round robin of R96 runs is the model's reading (log 40). -/
def Obligations.KneaderEvents : Prop :=
  ∀ (s : State) (desc level : Nat) (h : HStream), s.streamPa desc = some h → h ∈ s.streams →
    let until32 (t : State) : Prop := ∃ g ∈ t.streams, g.pa = h.pa ∧ g.commit = s.time + 32 ∧ g.retry = none
    (s.hNext h = some level → level < h.nlev → s.hCnt h (level + 1) < h.cap (level + 1) →
      s.hMay h = true →
      let st := s.hOldestAt h level
      let a := h.slotVa (level + 1) st
      let u := s.pageMeet h.pages ([st, st + 2 ^ level].map fun k => ((h.slotVa level k : Int), h.isz))
      ∃ t, exec (.kneaderMerge desc level) s = .next t ∧
        ∀ x y z, u.hItem h level st = .ok x → u.hItem h level (st + 2 ^ level) = .ok y → h.combine x y = some z →
          until32 t ∧ t.tmem = s.tmem ∧ t.nodes = s.nodes ∧ t.cur.s = s.cur.s ∧ t.cur.pc = s.cur.pc ∧
          (ItemPlace s h a → t.hItem h (level + 1) st = .ok (z % 2 ^ (8 * h.isz)) ∧
            StreamFields h (s.hHead h) (s.hMcnt h + 1) (fun k => if k = level then s.hCnt h k - 2
              else if k = level + 1 then s.hCnt h k + 1 else s.hCnt h k) t ∧ ItemsKept h (itemLines h a) s t)) ∧
    (s.hNext h = some h.nlev → s.hMay h = true →
      ∃ t, exec (.kneaderExpire desc) s = .next t ∧ until32 t ∧ t.tmem = s.tmem ∧ t.nodes = s.nodes ∧ t.cur.s = s.cur.s ∧
        t.cur.pc = s.cur.pc ∧
        (h.va.toNat % 256 = 0 → (∃ l, leafAt h.pages h.va.toNat = some l ∧ l.d = false) →
          StreamFields h (s.hHead h) (s.hMcnt h + 1) (fun k => if k = h.nlev then s.hCnt h k - 2 else s.hCnt h k) t ∧
          ItemsKept h [] s t ∧
          (2 ≤ s.hCnt h h.nlev → s.hCnt h h.nlev ≤ s.hEver h h.nlev → t.hOldest h = s.hOldest h + 2 * 2 ^ h.nlev))) ∧
    (∀ slot q, s.stalledOf slot = some (h, q) → s.hFull h = false → h.stalled.head? = some q → q.node = false →
      s.cur.status ≠ .idle → s.cur.slot = slot → s.cur.views = none →
      ∃ t, exec (.stalledAppendCommit slot) s = .next t ∧ WentOn s t ∧ ContextKept [] s t ∧
        (∀ g ∈ t.streams, g.part = h.part → g.pa = h.pa → q ∉ g.stalled) ∧ Appended h q.item s t) ∧
    (∀ slot n r x v, s.node slot = some n → n.stat = .engine → recKind n.words = 4 → s.stalledOf slot = none →
      n.hist = some r → s.streamAt n.part r.desc = some h → n.prog < r.cnt →
      let va := r.src + n.prog * h.isz
      windowed va = false → h.stalled = [] → s.hFull h = false → s.agentGet sysAgent n.part n.asid va h.isz = .ok (x, v) →
      v.hFull h = false →
      let w := v.countIn sysAgent n.part n.asid (if va % 128 = 0 ∨ n.prog = 0 then [(va, h.isz)] else [])
      (n.prog + 1 < r.cnt → ∃ t, exec (.historyNodeAppend slot) s = .next t ∧
        (∀ m ∈ t.nodes, m.slot = slot → ∃ m' ∈ s.nodes, m.prog = m'.prog + 1) ∧
        t.streams = s.streams ∧ t.tmem = s.tmem ∧ Appended h x w t) ∧
      (n.prog + 1 = r.cnt → exec (.historyNodeAppend slot) s =
        .next (((w.append h x).mapNode slot fun _ => { n with prog := r.cnt }).retireNode slot 1 0 (BitVec.ofNat 64 r.cnt) 0 true))) ∧
    ∀ slot n ws u, s.node slot = some n → n.stat = .engine → recKind n.words = 4 → s.stalledOf slot = none → n.hist = none →
      s.histBlock n = .ok (ws, u) → windowed (wordAt ws 1).toNat = false → u.nodeStream n (wordAt ws 0).toNat = .ok h →
      (wordAt ws 1).toNat % h.isz = 0 →
      let r : HistRun := { desc := h.pa, src := (wordAt ws 1).toNat, cnt := (wordAt ws 2).toNat }
      exec (.historyNodeAppend slot) s = .next (((u.nodeUses n (wordAt ws 0).toNat).mapNode slot fun m => { m with hist := some r }).nextItem
        { n with hist := some r } r)

/-! ### Pools -/

/-- R271-R273: `pool.pop` gives the newest entry and lowers CNT, `pool.push` stores an entry above it and raises CNT, `kvapp` gives the
slot at TAILPG + 128 + USED × SLOT and raises USED and NTOK, in a new page of KPOOL where there is no tail or it is full; each
performs at the descriptor's home before its result is seen. An empty or full pool takes its cause and changes nothing but the errors of
stored lines that its reads met (R73, R74).
That ctl.tval then names the descriptor is the model's reading (log 19). -/
def Obligations.PoolResults : Prop :=
  ∀ (s : State) (rd a b : Reg), s.badS false [a, b] = false →
    let va := (s.opS 0 a).toNat
    let pops (i : Instr) (x : Nat) (u : State) : Prop :=
      x < 2 ^ 64 → ∃ t, exec i s = .next t ∧ WentOn s t ∧ { t with cur := s.cur } = { u with cur := s.cur } ∧
        if s.cur.ctl.sa = 0 then
          t.cur.regVal (.s rd.toNat) = (if rd = 0 then 0 else x)
        else ∃ p, t.cur.pend = u.cur.pend ++ [p] ∧ p.tag = s.cur.ctl.sa.toNat ∧ p.late = none ∧ t.cur.s = u.cur.s ∧
          p.vals = [{ reg := .s rd.toNat, val := x }]
    (∀ parr cap cnt u x v, s.poolOpen va = .ok ((parr, cap, cnt), u) → cnt ≠ 0 →
      u.poolWord (parr + 8 * (cnt - 1)) .read = .ok (x, v) →
      let w := (v.countIn sysAgent v.cur.part v.cur.asid [(parr + 8 * (cnt - 1), 8)]).poolPut (va + 0x10) 8 (cnt - 1)
      unheard w.cur = unheard s.cur → pops (.poolPop rd a) x w) ∧
    (∀ parr cap cnt u l, s.poolOpen va = .ok ((parr, cap, cnt), u) → cnt ≠ cap →
      u.poolLeaf (parr + 8 * cnt) .write = .ok l →
      let v := (u.poolPut (parr + 8 * cnt) 8 (s.opS 1 b).toNat).poolPut (va + 0x10) 8 (cnt + 1)
      ∃ t, exec (.poolPush a b) s = .next t ∧ t.cur.fate = .retired ∧ { t with cur := s.cur } = { v with cur := s.cur } ∧
        t.cur.s = v.cur.s ∧ t.cur.v = v.cur.v ∧ t.cur.creg = v.cur.creg) ∧
    (∀ x u, s.kvAppend va = .ok (x, u) → unheard u.cur = unheard s.cur → pops (.kvapp rd a) x u) ∧
    (∀ head tail ntok ks pool rest u, s.poolRecord va = .ok (head :: tail :: ntok :: ks :: pool :: rest, u) →
      let slot := ks % 65536
      let used := ks / 65536 % 65536
      let cap := 65408 / slot
      head % 65536 = 0 → tail % 65536 = 0 → ntok < 2 ^ 48 → ks < 2 ^ 32 → (∀ x ∈ rest, x = 0) → pool % 64 = 0 → slot % 64 = 0 →
      64 ≤ slot → slot ≤ 65408 → used ≤ cap → windowed pool = false → windowed tail = false →
      let counted (v : State) (n : Nat) : State := (v.poolPut (va + 0x10) 8 ((ntok + 1) % 2 ^ 48)).poolPut (va + 0x18) 8 (slot + 65536 * n)
      (tail ≠ 0 → used < cap → unheard (counted u (used + 1)).cur = unheard s.cur →
        pops (.kvapp rd a) (tail + 128 + used * slot) (counted u (used + 1))) ∧
      (tail = 0 ∨ used = cap → ∀ p t, u.poolTake pool = .ok (p, t) → p % 65536 = 0 → p < 2 ^ 64 → t.chainPage p = .ok () →
        (tail ≠ 0 → t.chainPage tail = .ok ()) →
        let v := t.poolPut p 8 0
        let v := if tail = 0 then v.poolPut va 8 p else v.poolPut tail 8 (p / 65536 % 2 ^ 39 * 65536 + 1)
        let w := counted (v.poolPut (va + 8) 8 p) 1
        unheard w.cur = unheard s.cur → pops (.kvapp rd a) (p + 128) w)) ∧
    (∀ parr cap u, s.poolOpen va = .ok ((parr, cap, 0), u) → s.cur.ctl.sa ≠ 0 →
      ∃ t p, exec (.poolPop rd a) s = .next t ∧ WentOn s t ∧ MemoryOnly s { t with cur := s.cur } ∧ ContextKept [] s t ∧
        t.cur.pend = s.cur.pend ++ [p] ∧ p.late = some { code := 0x1B5, tval := s.opS 0 a }) ∧
    ∀ parr cap u, s.poolOpen va = .ok ((parr, cap, cap), u) →
      exec (.poolPush a b) s = TakesCause (s.agentMet s.cur.part s.cur.asid va 64) 0x1B6 (s.opS 0 a)

/-! ### Tiles, engines and nodes -/

namespace Sys2Proof.Claims

/-- A tile is the context's own or proofed for it (R50). -/
def mineOf (s : State) (n : Nat) : Bool :=
  let o := (s.tile s.cur.cluster n).owner
  (tileKind o == 1 || tileKind o == 3) && tileNode o == s.cur.slot

/-- Nothing changed but the owner fields of tiles, the region records and the context's bookkeeping of the word. -/
def TilesOnly (s t : State) : Prop :=
  { t with cur := s.cur, tiles := s.tiles, regions := s.regions } = s ∧ KeptBut [] s.cur t.cur

/-- A command of an engine is accepted (R308): its tiles flip to the engine, and it joins the commands in flight. -/
def Accepts (i : Instr) (s : State) (ns : List Nat) (eng : Nat) (copy : Bool) : Prop :=
  ∃ t c, exec i s = .next t ∧ WentOn s t ∧ ContextKept [] s t ∧ t.cmds = s.cmds ++ [c] ∧ c.id = s.serial ∧
    c.slot = s.cur.slot ∧ c.cluster = s.cur.cluster ∧ c.tiles = ns ∧ c.node = false ∧ (c.op = .sort ↔ copy = false) ∧
    (∀ n ∈ ns, (t.tile s.cur.cluster n).owner = ownerField 2 eng s.cur.part 0 s.cur.slot) ∧ t.nodes = s.nodes ∧ t.tmem = s.tmem

/-- A write of a copy holds a byte at a destination address. -/
def holdsByte (w : EngWrite) (x : Int) (b : Byte) : Prop :=
  ∃ k < 128, w.mask.getLsbD k = true ∧ x = ((w.addr / 128 * 128 + k : Nat) : Int) ∧ b = BitVec.ofNat 8 (lineGet w.data k 1)

/-- The writes of a copy hold the bytes of its rows (R306, R307): nothing else, and every byte of every row. `src` gives a byte of the
source by its address. -/
def Moves (j : CopyJob) (src : Int → Byte) (out : List EngWrite) : Prop :=
  let row (r q : Nat) (x : Int) (b : Byte) : Prop := x = j.dst + r * j.ds + q ∧ b = src (j.src + r * j.ss + q)
  (∀ w ∈ out, w.tile = (j.dp == .tiles) ∧ ∀ x b, holdsByte w x b → ∃ r < j.rows, ∃ q < j.len, row r q x b) ∧
    ∀ r < j.rows, ∀ q < j.len, ∃ w ∈ out, ∃ x b, holdsByte w x b ∧ row r q x b

/-- The byte at an address of the tile space of a cluster. -/
def tileByte (s : State) (o : Nat) (a : Int) : Byte := s.tmem.byte (tileAddr o (a.toNat / 65536) (a.toNat % 65536))

/-- The byte in DRAM at a VA of captured pages. -/
def dramByte (s : State) (pages : List (Nat × Leaf)) (a : Int) : Byte :=
  match leafAt pages a.toNat with
  | some l => BitVec.ofNat 8 (lineGet (s.dramRead (l.pa a.toNat / 128) l.key).1 (l.pa a.toNat % 128) 1)
  | none => 0

/-- A page that no L2 slice holds lines of: in capacity memory, or with the channel as its home (R36, R104). -/
def belowL2 (q : Nat × Leaf) : Prop :=
  q.2.d = false ∧ (region (q.2.pa (65536 * q.1)) = .cap ∨ (region (q.2.pa (65536 * q.1)) = .fast ∧ q.2.ca = 2))

/-- A copy that the word in focus issues, its source read in `u` (R308): a tile's bytes, or those of DRAM below the L2. -/
def HoldsSource (s u : State) (j : CopyJob) (out : List EngWrite) : Prop :=
  let c := s.cur
  (j.sp = .tiles → Moves j (tileByte s c.cluster) out) ∧
    ∀ rp wp, j.sp = .mem → u.probePages c.part c.asid .read (fun _ => none) (pagesOfRuns j.srcRuns) = .ok rp →
      u.probePages c.part c.asid .write (fun _ => none) (if j.dp == .mem then pagesOfRuns j.dstRuns else []) = .ok wp →
      (∀ q ∈ rp, belowL2 q) → u.latent = [] →
      Moves j (dramByte ((u.usePages c.part c.asid .read rp).usePages c.part c.asid .write wp) rp) out

end Sys2Proof.Claims

/-- R50-R54, R303, R304: taking, giving, testing, proofing and unproofing tiles; contents stay, but that each 128-byte block of an
unproofed region's tiles may become zero. Tiles that a context may not have hold issue or take operand misuse, 0x162. -/
def Obligations.TileOwnership : Prop :=
  ∀ (s : State) (n k1 : BitVec 7) (dest : BitVec 2) (rd r : Reg), rangeBad n k1 = false →
    let c := s.cur
    let ns := tileRange n k1
    let own := ownerField 1 0 c.part 0 c.slot
    ((∀ j ∈ ns, mineOf s j = true ∨ (s.tile c.cluster j).takeable c.part = true) →
      ∃ t, exec (.ownTake n k1) s = .next t ∧ WentOn s t ∧ TilesOnly s t ∧ t.regions = s.regions ∧
        ∀ o j, t.tile o j = if o = c.cluster ∧ j ∈ ns ∧ mineOf s j = false then { cluster := o, n := j, owner := own, clear := false }
          else s.tile o j) ∧
    (mineOf s n.toNat = false → (s.tile c.cluster n.toNat).takeable c.part = false →
      exec (.ownTake n k1) s = .next (s.mapCur fun d => { d with held := true, fate := .held })) ∧
    (s.ownsAll ns = true →
      ∃ t, exec (.ownGive n k1 dest) s = .next t ∧ WentOn s t ∧ TilesOnly s t ∧ t.regions = s.regions ∧
        ∀ o j, t.tile o j = if o = c.cluster ∧ j ∈ ns then
            { cluster := o, n := j, clear := false
              owner := if dest = 0 then ownerField 0 0 c.part 0 0 else ownerField 2 (dest.toNat - 1) c.part 0 c.slot }
          else s.tile o j) ∧
    (s.ownsAll ns = false → exec (.ownGive n k1 dest) s = .next (s.serve 0x162 s.openTval c.pslot)) ∧
    Gives (.ownTest rd n) s rd ((s.tile c.cluster n.toNat).owner.setWidth 64) ∧
    (s.badS false [r] = false → s.checkTiles ns = .ok → ∀ ty cols blocks, shapeOf (s.opS 0 r) (k1.toNat + 1) = some (ty, cols, blocks) →
      ∃ t, exec (.proof n k1 r) s = .next t ∧ WentOn s t ∧ TilesOnly s t ∧
        (∀ j ∈ ns, (t.tile c.cluster j).owner = ownerField 3 0 c.part n.toNat c.slot) ∧
        { cluster := c.cluster, first := n.toNat, count := k1.toNat + 1, fw := (Ty.code ty).toNat, cols := cols
          blocks := blocks : Region } ∈ t.regions) ∧
    (∀ g, s.regionAt c.cluster n.toNat = some g → tileKind (s.tile c.cluster n.toNat).owner = 3 →
      tileNode (s.tile c.cluster n.toNat).owner = c.slot → c.mq = [] → c.status ≠ .idle → s.tmem.wf →
      ∃ t, exec (.unproof n) s = .next t ∧ WentOn s t ∧ KeptBut [] c t.cur ∧
        { t with cur := s.cur, tiles := s.tiles, regions := s.regions, tmem := s.tmem } = s ∧
        (∀ j < g.count, (t.tile c.cluster (g.first + j)).owner = own) ∧
        (∀ q, q ∈ t.regions ↔ q ∈ s.regions ∧ ¬ (q.cluster = c.cluster ∧ q.first = g.first)) ∧
        (∀ o j, ¬ (o = c.cluster ∧ g.first ≤ j ∧ j < g.first + g.count) → t.tile o j = s.tile o j) ∧
        (∀ a, (∀ j < g.count, ∀ off < 65536, a ≠ tileAddr c.cluster (g.first + j) off) → t.tmem.byte a = s.tmem.byte a) ∧
        ∀ j < g.count, ∀ b < 512, let block (u : State) (k : Nat) : Byte := u.tmem.byte (tileAddr c.cluster (g.first + j) (128 * b + k))
          (∀ k < 128, block t k = block s k) ∨ ∀ k < 128, block t k = 0)

/-- R306-R308: `sld`, `sst` and `cpy` hand a copy to the engines once its operands, tiles and pages pass their checks, and the writes
that the engine is to make hold the source's bytes, each in its row and place.
That the source is read as it stood at the issue is the model's reading (log 44), and that CC[22:16] of a block is zero for XF 0 and 1
(log 45). -/
def Obligations.CopyCommands : Prop :=
  ∀ (s : State) (n : BitVec 7) (off : BitVec 9) (a b : Reg), s.badS false [a, b] = false →
    let c := s.cur
    let x := (s.opS 0 a).toNat
    let len := (s.opS 1 b).toNat
    let t0 : Int := 65536 * n.toNat + 128 * off.toNat
    let load : CopyJob := { sp := .mem, dp := .tiles, src := x, dst := t0, len := len, rows := 1, ss := 0, ds := 0 }
    let store : CopyJob := { sp := .tiles, dp := .mem, src := t0, dst := x, len := len, rows := 1, ss := 0, ds := 0 }
    let starts (i : Instr) (u : State) (j : CopyJob) : Prop :=
      s.checkTiles j.tileList = .ok → (∃ v, u.copyStart c.part c.asid c.cluster c.slot false j = .ok v) →
        Accepts i s j.tileList 0 true ∧
          (j.shape = none → ∃ t k out m, exec i s = .next t ∧ t.cmds = s.cmds ++ [k] ∧ k.op = .copy out m ∧ m = j.len * j.rows ∧
            HoldsSource s u j out)
    (x % 128 = 0 → len % 128 = 0 → 128 ≤ len → len ≤ 65536 → x + len ≤ windowBase → 128 * off.toNat + len ≤ 65536 * (128 - n.toNat) →
      starts (.sld n off a b) s load ∧ starts (.sst n off a b) s store) ∧
    ∀ ps j, x < windowBase → x % 64 = 0 → s.locateAll false .read (pieces x 64) = .ok ps →
      let r := (s.useAll .read ps).readPieces c.cluster c.hart false ps
      r.1.2 = none → blockJob (wordsOf 8 r.1.1) = some j → (j.sp = .mem → ∀ q ∈ j.srcRuns, 0 ≤ q.1 ∧ q.1 + q.2 ≤ windowBase) →
      (j.dp = .mem → ∀ q ∈ j.dstRuns, 0 ≤ q.1 ∧ q.1 + q.2 ≤ windowBase) →
      starts (.cpy a) (r.2.countDiscarded c.part (discardedLines ps)) j

/-- R313-R318: `rally.run` gives a tile back that holds a finished sort and hands any other well-formed one to Rally; `rally.stat`
reads a tile that the context or Rally holds.
How far a sort in progress has come at a `rally.stat` is a free value (log 50). -/
def Obligations.RallyInstructions : Prop :=
  ∀ (s : State) (rd : Reg) (n : BitVec 7),
    let c := s.cur
    let h := s.rallyHdr c.cluster n.toNat
    let o := (s.tile c.cluster n.toNat).owner
    (s.checkTiles [n.toNat] = .ok → (s.tileGet c.cluster n.toNat 0 8).2 = false → hdrOk h = true → s.rallyPad c.cluster n.toNat = true →
      (hdrSt h ≠ 2 → Accepts (.rallyRun n) s [n.toNat] 1 false) ∧
      (hdrSt h = 2 → ∃ t, exec (.rallyRun n) s = .next t ∧ WentOn s t ∧ TilesOnly s t ∧
        (t.tile c.cluster n.toNat).owner = ownerField 1 0 c.part 0 c.slot)) ∧
    (tileKind o = 1 → tileNode o = c.slot → s.sortTurn c.cluster = none →
      Gives (.rallyStat rd n) s rd (BitVec.ofNat 64 (bits h 0 26)))

/-- R309-R311, R155: `enq` submits a record after a release at .v, `enqb` does so for each active entry and says in a mask which were
accepted, or holds issue while the page of one is being moved (R35); `node.done` ends its node: its context leaves the hart, the ready
pool no longer holds it.
That the end of a node drops its fetches and drains its tagged producers is the model's choice (logs 24 and 25). -/
def Obligations.NodeInstructions : Prop :=
  ∀ (s : State) (a rd : Reg) (mk : BitVec 4),
    let c := s.cur
    (∀ u, s.badS false [a] = false → (s.release .v).submit c.part c.asid (s.opS 0 a) = .ok u →
      ∃ t, exec (.enq a) s = .next t ∧ WentOn s t ∧ ContextKept [] s t ∧ { t with cur := s.cur } = { u with cur := s.cur }) ∧
    (s.badS false [a] = false → (s.release .v).submit c.part c.asid (s.opS 0 a) = .error .refused →
      exec (.enq a) s = .next ((s.release .v).serve 0x170 (s.opS 0 a) c.pslot)) ∧
    (Unmarked c → rd.toNat < 16 → c.lanes ≠ 0 →
      let n := min c.vl (min (32 * c.lanes) 64)
      let g := ceilDiv (2 * n) (8 * c.lanes)
      let word (i : Nat) : Word := BitVec.ofNat 64 (groupGet c.lanes 64 (s.opGroup 0 a g) i)
      let on (j : Nat) : Bool := (s.opM 1 mk.toNat).getLsbD j
      let entry (j : Nat) : Word × Word := (word (2 * j), word (2 * j + 1))
      let r := (s.release .v).batchAll on entry (List.range n) 0
      let waits := (s.release .v).batchWaits on entry (List.range n)
      (n = 0 → ∃ t, exec (.enqb rd a mk) s = .next t ∧ WentOn s t ∧ OutsideKept s t) ∧
      (n ≠ 0 → a.toNat + g ≤ 64 → waits = true →
        exec (.enqb rd a mk) s = .next (s.mapCur fun d => { d with held := true, fate := .held })) ∧
      (n ≠ 0 → a.toNat + g ≤ 64 → waits = false → ∃ t, exec (.enqb rd a mk) s = .next t ∧ WentOn s t ∧
        { t with cur := s.cur } = { r.2 with cur := s.cur } ∧
        if c.ctl.sa = 0 then rd ≠ 0 → t.cur.m.getD rd.toNat 0 = BitVec.ofNat 8192 r.1
        else ∃ p, t.cur.pend = c.pend ++ [p] ∧ p.tag = c.ctl.sa.toNat ∧ p.vals.map (fun v => (v.reg, v.val)) = [(.m rd.toNat, r.1)])) ∧
    (s.cmds = [] → s.bank = [] → c.mq = [] → c.posted = [] → c.status = .running → s.servedNode c.slot = none →
      ∃ t, exec .nodeDone s = .next t ∧ t.cur.status = .idle ∧ ∀ m ∈ t.nodes, m.slot ≠ c.slot)

/-- R327, R332: `bcmd` hands its record's command to the bank cores, `bgath` and `bscadd` their entries, once every check passes; a
`bgath` with SA = 0 retires too. -/
def Obligations.BankInstructions : Prop :=
  ∀ (s : State) (rd a b : Reg) (mk ef : BitVec 4), Unmarked s.cur →
    let c := s.cur
    let x := s.opS 0 a
    let ty := (efTy ef.toNat).getD .i32
    let es := s.bankEntries x b (s.opM 2 mk.toNat) ty
    (∀ l pa, x.toNat < windowBase → x.toNat % 128 = 0 → s.locate c.cluster c.part c.asid c.slot false x.toNat .read = .ok (.page l pa) →
      region pa = .fast → l.ca = 2 →
      let ps := [(x.toNat, 128, Loc.page l pa)]
      let r := (s.useAll .read ps).readPieces c.cluster c.hart false ps
      ∀ u, r.1.2 = none → r.2.bankStart c.part c.asid c.slot false x r.1.1 = .ok u →
        ∃ t k, exec (.bcmd a) s = .next t ∧ WentOn s t ∧ ContextKept [] s t ∧ t.bank = s.bank ++ [k] ∧ k.slot = c.slot ∧
          k.recVa = x ∧ k.node = false ∧ t.nodes = s.nodes ∧ t.tmem = s.tmem) ∧
    ∀ pages, (∀ e ∈ es, e.2 < windowBase) → x.toNat % (ty.bits / 8) = 0 →
      let probed (acc : Acc) : Prop :=
        s.probePages c.part c.asid acc Leaf.notChannel (es.map fun e => (e.2 / 65536, e.2)) = .ok pages
      (probed .read → c.ctl.sa = 0 → ∃ t, exec (.bgath rd a b mk ef) s = .next t ∧ t.cur.fate = .retired ∧ t.cur.held = false) ∧
      (probed .read → c.ctl.sa ≠ 0 →
        ∃ t k p, exec (.bgath rd a b mk ef) s = .next t ∧ WentOn s t ∧ ContextKept [] s t ∧ t.bank = s.bank ++ [k] ∧ k.kind = 3 ∧
          k.slot = c.slot ∧ k.tag = c.ctl.sa.toNat ∧ k.entries = es.map (fun e => (e.2, e.1)) ∧
          t.cur.pend = c.pend ++ [p] ∧ p.tag = c.ctl.sa.toNat ∧ p.vals.map (·.reg) = [.v (c.vslot rd.toNat)]) ∧
      (probed .write →
        ∃ t, exec (.bscadd rd a b mk ef) s = .next t ∧ WentOn s t ∧ ContextKept [] s t ∧ t.nodes = s.nodes ∧ t.tmem = s.tmem ∧
          if es = [] then t.bank = s.bank
          else ∃ k, t.bank = s.bank ++ [k] ∧ k.kind = 4 ∧ k.slot = c.slot ∧
            k.entries = es.map fun e => (e.2, elemGet c.lanes ty.bits (s.opV 2 rd) e.1))

/-! ### Barriers, traps and control registers -/

/-- R148, R149, R229, R22, R369: `yield` only advances. `bar.arr` gives the phase before it and joins the arrived, which begins the
next phase with the last member; `bar.wait` goes on once the phase has moved and holds until then; `bar.sync` does both. A `wfe`
that a write or the end of its time has met goes on with rd = 1 or 0, and one that begins arms its monitor and holds. `pte.inv`
leaves no covered translation of its partition cached, and holds while an access under one has not been made.
That a write of its own cluster may wake a `wfe` (log 23), that `bar.wait` consumes the low half of its register alone (log 91), and which
accesses under an entry `pte.inv` waits for (log 75), are the model's choices. -/
def Obligations.WaitingInstructions : Prop :=
  ∀ (s : State) (rd a b : Reg) (lvl : BitVec 3) (scope : BitVec 2),
    let c := s.cur
    let passes (i : Instr) (regs : List PReg) : Prop :=
      ∃ t, exec i s = .next t ∧ WentOn s t ∧ MemoryOnly s { t with cur := s.cur, bars := s.bars } ∧
        KeptBut (.c 21 :: regs) (unheard c) { unheard t.cur with sync := c.sync }
    let holds (i : Instr) : Prop := exec i s = .next (s.mapCur fun d => { d with held := true, fate := .held })
    let va := (s.opS 0 a).toNat
    let asid := bits (s.opS 1 b) 0 12
    OnlyAdvances .yield s ∧
    (∀ l sc, s.groupOf lvl.toNat = some (l, sc) →
      let g := s.barrier l lvl.toNat
      let joined (t : State) : Prop :=
        let d := t.barrier l lvl.toNat
        if g.arrived.length + 1 = g.size then d.phase = g.phase + 1 ∧ d.arrived = []
        else d.phase = g.phase ∧ d.arrived = g.arrived ++ [c.slot]
      (c.slot ∉ g.arrived → passes (.barArr rd lvl) (scalarDst rd) ∧
        ∃ t, exec (.barArr rd lvl) s = .next t ∧ joined t ∧ t.cur.regVal (.s rd.toNat) = if rd = 0 then 0 else g.phase.toNat) ∧
      (s.badS true [a] = false → g.phase ≠ (s.opS 0 a).setWidth 32 → passes (.barWait a lvl) []) ∧
      (s.badS true [a] = false → g.phase = (s.opS 0 a).setWidth 32 → holds (.barWait a lvl)) ∧
      (c.syncing lvl.toNat = none → c.slot ∉ g.arrived → g.arrived.length + 1 = g.size → passes (.barSync lvl) [] ∧
        ∃ t, exec (.barSync lvl) s = .next t ∧ joined t ∧ t.cur.sync = none) ∧
      (c.syncing lvl.toNat = none → c.slot ∉ g.arrived → g.arrived.length + 1 ≠ g.size →
        ∃ t, exec (.barSync lvl) s = .next t ∧ joined t ∧ t.cur.fate = .held ∧ t.cur.pc = c.pc ∧
          t.cur.sync = some (c.pc, lvl.toNat, g.phase)) ∧
      ∀ ph, c.syncing lvl.toNat = some ph →
        (g.phase ≠ ph → passes (.barSync lvl) []) ∧ (g.phase = ph → holds (.barSync lvl))) ∧
    (c.held = true → ∀ why, c.heard = some why →
      ∃ t, exec (.wfe rd a) s = .next t ∧ WentOn s t ∧ OutsideKept s t ∧ t.cur.monitor = none ∧ t.cur.heard = none ∧
        KeptBut (scalarDst rd) c { t.cur with monitor := c.monitor, heard := c.heard } ∧
        t.cur.regVal (.s rd.toNat) = if rd = 0 then 0 else if why = .write then 1 else 0) ∧
    (c.held = false → s.badS false [a] = false → ∀ l pa,
      s.locate c.cluster c.part c.asid c.slot false va .read = .ok (.page l pa) → region pa ≠ .device →
      ∃ t, exec (.wfe rd a) s = .next t ∧ t.cur.fate = .held ∧ t.cur.pc = c.pc ∧ t.cur.monitor = some (pa / 128) ∧
        t.cur.heard = none ∧ t.cur.waitAt = s.time ∧ MemoryOnly s { t with cur := s.cur }) ∧
    (c.super = true → s.badS false [a, b] = false → (scope.toNat ≤ 1 → va < windowBase) →
      (s.pteBusy c.part scope.toNat asid va = false → s.settles c.part = true →
        ∃ t, exec (.pteInv a b scope) s = .next t ∧ WentOn s t ∧
          t.tlb = s.tlb.filter (fun x => !(x.part == c.part && pteCovers scope.toNat asid va x.asid x.page)) ∧
          t.cur.s = c.s ∧ t.cur.v = c.v ∧ t.cur.m = c.m ∧ t.cur.creg = c.creg ∧ t.nodes = s.nodes ∧ t.tmem = s.tmem) ∧
      (s.pteBusy c.part scope.toNat asid va = true ∨ s.settles c.part = false → holds (.pteInv a b scope)))

namespace Sys2Proof.Claims

/-- The context in focus has a command of an engine or a memory-side operation in flight. -/
def InFlight (s : State) : Prop := (∃ b ∈ s.bank, b.slot = s.cur.slot) ∨ ∃ c ∈ s.cmds, c.slot = s.cur.slot

/-- A cause on the service route (R355, R356) ends the context's turn: its hart is free, its node is parked or has retired, a
parked context stands with the cause, the word and slot, and the word to go on at, and its handler is submitted with these. With
commands in flight it may wait for them, and no word of the context issues meanwhile (R152, R155). -/
def Serves (i : Instr) (s : State) (code : Nat) : Prop :=
  ∃ t, exec i s = .next t ∧
    (¬ InFlight s → t.cur.status = .idle) ∧
    (t.cur.status ≠ .idle → t.cur.status = s.cur.status ∧ t.cur.pc = s.cur.pc ∧ t.cur.s = s.cur.s ∧
      ∃ x, t.cur.due = some ({ code := code, tval := x }, s.cur.pslot)) ∧
    (t.cur.status = .idle → (∀ m ∈ t.nodes, m.slot = s.cur.slot → m.stat = .parked) ∧
    ∀ d ∈ t.others, d.slot = s.cur.slot →
      d.status = .parked ∧ d.super = s.cur.super ∧ d.cr 10 = BitVec.ofNat 64 code ∧
      d.cr 11 = BitVec.ofNat 64 (s.cur.pc.toNat + 2 ^ 32 * (s.cur.pslot % 2)) ∧
      d.pc = (if 4 ≤ code ∧ code ≤ 6 then s.cur.pc + 1 else s.cur.pc) ∧
      ∃ m ∈ t.nodes, m.faulted = some s.cur.slot ∧
        m.inputs = [d.cr 17, BitVec.ofNat 64 code, d.cr 12, d.cr 11, BitVec.ofNat 64 s.cur.slot])

/-- The context in focus runs, and no other context has its slot. -/
def OnlySlot (s : State) : Prop := s.cur.status = .running ∧ ∀ d ∈ s.others, d.slot ≠ s.cur.slot

end Sys2Proof.Claims

/-- R354, R355, R175, R360, R363, R366: the service route. `svc` always takes it, `trap` and `brk` where the light route is closed;
a supervisor-only instruction in task mode is cause 0.3, `eret` with nothing to return from 0.7, and an operand that is
poisoned 3.3.
ctl.tval of a cause for which no rule states one is a free value (log 15); that a cause waits for commands in flight is the model's
reading (log 41). -/
def Obligations.ServiceRoute : Prop :=
  ∀ (s : State) (imm : BitVec 32) (rd a b : Reg) (num : BitVec 5) (sc : BitVec 2), OnlySlot s →
    Serves (.svc imm) s 6 ∧
    (s.cur.lightReady = false → Serves (.trap imm) s 4 ∧ Serves (.brk imm) s 5) ∧
    (s.cur.super = false →
      (∀ i ∈ [Instr.eret, .ctxResume a, .ctxResumeRetire a, .pteInv a b sc, .hcfgRegister a, .hcfgRestart a, .hcfgRetire a],
        Serves i s 3) ∧
      (num.toNat ∈ [10, 11, 12, 17, 22, 23, 24, 25, 26] →
        ∀ i ∈ [Instr.ctlWr num a, .ctlSet num a, .ctlClr num a], Serves i s 3)) ∧
    (s.cur.super = true → (s.cur.cr 24).getLsbD 0 = false → Serves .eret s 7) ∧
    (s.badS false [a, b] = true → ∀ i ∈ [Instr.add rd a b, .beq a b imm, .div rd a b, .qset rd a b .w false .c, .clnR a b],
      Serves i s 0x0C3) ∧
    ∀ p, s.postedDue = some p → Serves .postedCauseTaken s p.code

/-- R358, R359, R366: the light route. `trap`, `brk` and an enabled event that is due enter at ctl.tvec in supervisor mode, with
the cause, the word to return to and the mode before in ctl.tcause, ctl.tepc and ctl.tstat; `eret` returns to that word and
mode. Each begins a convoy whose first word makes every pending result visible. No other register changes.
That a convoy so begun has nothing in it but that drain is the model's reading (log 21), and that a producer which was to run again is
set aside for the handler its choice (log 88). -/
def Obligations.LightRoute : Prop :=
  ∀ (s : State) (imm : BitVec 32), s.cur.views = none →
    let c := s.cur
    let enters (i : Instr) (code : Nat) (imm next : BitVec 32) (regs : List PReg) : Prop :=
      ∃ t, exec i s = .next t ∧ OutsideKept s t ∧ t.cur.super = true ∧ t.cur.pc = (c.cr 23).setWidth 32 ∧
        t.cur.cr 26 = BitVec.ofNat 64 (imm.toNat * 2 ^ 32 + code) ∧ t.cur.cr 25 = next.setWidth 64 ∧
        t.cur.cr 24 = (if c.super then 3 else 1) ∧ t.cur.convoy = { drain := true } ∧
        KeptBut ([.c 24, .c 25, .c 26] ++ regs) c { t.cur with super := c.super, convoy := c.convoy, aside := c.aside }
    (c.lightReady = true → enters (.trap imm) 4 imm (c.pc + 1) [] ∧ enters (.brk imm) 5 imm (c.pc + 1) []) ∧
    (c.super = true → (c.cr 24).getLsbD 0 = true →
      ∃ t, exec .eret s = .next t ∧ OutsideKept s t ∧ WentTo ((c.cr 25).setWidth 32) t ∧ t.cur.super = (c.cr 24).getLsbD 1 ∧
        (t.cur.cr 24).getLsbD 0 = false ∧ t.cur.cr 24 >>> 1 = c.cr 24 >>> 1 ∧ t.cur.convoy = { drain := true } ∧
        KeptBut [.c 24] c { t.cur with super := c.super, convoy := c.convoy, aside := c.aside }) ∧
    ∀ k, c.status = .running → s.postedDue = none → s.eventNow = some k →
      enters .asyncEventTaken ([0x1C0, 0x1F9, 0x1F2, 0x1FB].getD k 0) 0 c.pc [.c 28] ∧
        ∃ t, exec .asyncEventTaken s = .next t ∧ ∀ j < 64, (t.cur.cr 28).getLsbD j = ((c.cr 28).getLsbD j && j != k)

/-- R360, R367: a control register is read as its words say; of a write only the writable bits take effect, a reserved rounding
mode is not taken (R196), and a write of ctl.tcmp arms the timer (R359). `ctl.clr` also clears the event bits and DEMOTED. -/
def Obligations.ControlRegisters : Prop :=
  ∀ (s : State) (rd a : Reg) (num : BitVec 5),
    let c := s.cur
    let n := num.toNat
    let writes (i : Instr) (mask x : Word) : Prop :=
      let new := (c.cr n &&& ~~~mask) ||| (x &&& mask)
      ∃ t, exec i s = .next t ∧ WentOn s t ∧ OutsideKept s t ∧ KeptBut [.c n] c { t.cur with timer := c.timer } ∧
        t.cur.cr n = (if n = 13 ∧ 4 < new.toNat % 8 then c.cr n else new) ∧ t.cur.timer = (c.timer || n == 27)
    (n ≠ 14 → Gives (.ctlRd rd num) s rd (s.opC 0 n)) ∧
    (n = 14 → c.pend = [] → Gives (.ctlRd rd num) s rd (c.cr 14)) ∧
    (s.badS false [a] = false → (n ∈ [10, 11, 12, 17, 22, 23, 24, 25, 26] → c.super = true) →
      let x := s.opS 0 a
      writes (.ctlWr num a) (ctlMask n) x ∧ writes (.ctlSet num a) (ctlMask n) (c.cr n ||| x) ∧
        writes (.ctlClr num a) (ctlMask n ||| clrMask n) (c.cr n &&& ~~~x))

/-! ### Contexts, the dispatcher and the watchdogs -/

/-- R121, R147, R151-R154, R168, R359, R364, R368: what happens to contexts. One that is switched out keeps its word and registers off
its hart, one that resumes has them on the hart it is given; a granule is evicted with no register changed, and one whose image
cannot be reached ends its node; a tagged producer completes without its result being visible; a timer or a signal is pending in
ctl.tpend; and `ctx.resume` returns the faulted node's context, read from its image, or retires its node, while the handler's own node
retires.
A node whose commands have not ended stays until they have.
That an event of a parked context waits beside its image until the image is read again (log 74), and that a retirement waits for commands
(log 41), are the model's readings. -/
def Obligations.ContextEvents : Prop :=
  ∀ (s : State), OnlySlot s →
    let c := s.cur
    (s.switchWaits c = false → s.gathering c.slot = false →
      ∃ t, exec (.contextSwitchOut c.slot) s = .next t ∧ t.cur.status = .idle ∧
        (∀ m ∈ t.nodes, m.slot = c.slot → m.stat = .out) ∧
        ∃ d ∈ t.others, d.slot = c.slot ∧ d.status = .out ∧ d.pc = c.pc ∧ d.s = c.s ∧ d.super = c.super ∧
          d.monitor = none ∧ (c.monitor.isSome → d.heard.isSome) ∧ (c.heard = some .write → d.heard = some .write) ∧
          ∀ p ∈ d.posted, p.unit ≠ 3) ∧
    (∀ g, g < imageGranules c.lanes → (s.imageLeaf c.part c.asid (c.image.toNat + 64 * g) .write).isSome →
      ∃ t, exec (.registerGranuleEvict c.slot g) s = .next t ∧ MemoryOnly s { t with cur := s.cur } ∧
        KeptBut [] (unheard c) { unheard t.cur with evicted := c.evicted } ∧ t.cur.pc = c.pc) ∧
    (∀ g, g < imageGranules c.lanes → s.imageLeaf c.part c.asid (c.image.toNat + 64 * g) .write = none →
      (s.busy c.slot = false →
        ∃ t, exec (.registerGranuleEvict c.slot g) s = .next t ∧ t.cur.status = .idle ∧ ∀ m ∈ t.nodes, m.slot ≠ c.slot) ∧
      (s.busy c.slot = true → exec (.registerGranuleEvict c.slot g) s = .next (s.finishBank c.slot))) ∧
    (∀ tag, c.mq = [] → s.bank = [] →
      ∃ t, exec (.producerComplete c.slot tag) s = .next t ∧ OutsideKept s t ∧
        { t.cur with pend := c.pend } = c ∧
        t.cur.pend = c.pend.map fun p => if p.tag = tag then { p with done := true } else p) ∧
    (let posts (i : Instr) (k : Nat) : Prop :=
      ∃ t, exec i s = .next t ∧ OutsideKept s t ∧ KeptBut [.c 28] c { t.cur with timer := c.timer } ∧ t.cur.pc = c.pc ∧
        ∀ j < 64, (t.cur.cr 28).getLsbD j = ((c.cr 28).getLsbD j || j == k)
     posts (.signalEvent c.slot) 1 ∧
      (c.timer = true → c.cr 27 ≠ 0 → (c.cr 27).toNat ≤ s.time → posts (.timerEvent c.slot) 0 ∧
        ∃ t, exec (.timerEvent c.slot) s = .next t ∧ t.cur.timer = false)) ∧
    (∀ k d, s.ctxOf k = some d → d.status = .parked → k ≠ c.slot →
      ∃ t, exec (.signalEvent k) s = .next t ∧ t.cur = c ∧ { t with others := s.others } = s ∧
        ∀ x ∈ t.others, x.slot = k → x.status = .parked → x.news.getLsbD 1 = true) ∧
    (∀ a k, c.super = true → s.badS false [a] = false → s.resumable (s.opS 0 a) = some k → k ≠ c.slot →
      (s.busy c.slot = true → exec (.ctxResume a) s =
        .next ((s.finishBank c.slot).mapCur fun d => { d with held := true, fate := .held })) ∧ ∀ d,
      s.busy c.slot = false → s.busy k = false → (s.release .v).ctxOf k = some d →
      (∀ e, (s.release .v).unpark d (s.opS 0 a).toNat = .ok e →
        ∃ t, exec (.ctxResume a) s = .next t ∧ t.cur.status = .idle ∧ (∀ m ∈ t.nodes, m.slot ≠ c.slot) ∧
          ∃ x ∈ t.others, x.slot = k ∧ x.status = .out ∧ x.pc = e.pc ∧ x.s = e.s ∧ x.v = e.v ∧ x.creg = e.creg) ∧
      ∃ t, exec (.ctxResumeRetire a) s = .next t ∧ t.cur.status = .idle ∧
        ∀ m ∈ t.nodes, m.slot ≠ c.slot ∧ m.slot ≠ k) ∧
    ∀ (u : State) (d : Ctx) (n : Node) (o h : Nat), u.cur.status = .idle → u.ctxOf d.slot = some d → u.node d.slot = some n →
      u.canResume d n o h = true → d.evicted = [] →
      let v := u.flipEnded d.slot
      (v.moved ((v.ctxOf d.slot).getD d) o h).isSome →
      ∃ t, exec (.contextResume d.slot o h) u = .next t ∧ t.cur.status = .running ∧ t.cur.slot = d.slot ∧ t.cur.cluster = o ∧
        t.cur.hart = h ∧ t.cur.pc = d.pc ∧ t.cur.s = d.s ∧ t.cur.v = d.v ∧ t.cur.m = d.m ∧ t.cur.cr 19 = hartWord d.part o h ∧
        (∀ k, k ≠ 19 → k ≠ 21 → t.cur.cr k = d.cr k) ∧
        ∀ m ∈ t.nodes, m.slot = d.slot → m.stat = .running ∧ m.cluster = o

/-- R141, R341-R350: the dispatcher places the node it chooses, which starts at its first word with its arguments; a drain reserves its
clusters; a wait of a `wfe` ends with its time; a node's watchdog marks half its limit in ctl.evt and ends the node at the whole
limit, or sends it back once where its record asks for it; a boundary of the time base halves the counts of dispatches, and gives every
activity of a channel its allowance, of which a debt is taken (R350); and a free
entry of the matrix queue goes to the requester with the least virtual time, which pays for it.
When each event happens is the agenda's (logs 2, 77 and 78). -/
def Obligations.SchedulerEvents : Prop :=
  ∀ (s : State),
    (∀ c n o, s.cur.status = .idle → s.choose = some (c, n) → s.placement n = some [(n, o)] → n.isEngine = false →
      ∃ t, exec .dispatchNode s = .next t ∧ t.cur.status = .running ∧ t.cur.slot = n.slot ∧ t.cur.cluster = o ∧ t.cur.part = n.part ∧
        t.cur.code = wordAt n.words 1 ∧ t.cur.pc = 0 ∧ t.cur.super = (recKind n.words == 5) ∧
        t.cur.s.getD 1 0 = wordAt n.words 11 ∧ t.cur.s.getD 2 0 = wordAt n.words 12 ∧
        t.dispatched n.part c = s.dispatched n.part c + 1 ∧
        ∀ m ∈ t.nodes, m.slot = n.slot → m.stat = .running ∧ m.cluster = o) ∧
    (∀ slot n, s.node slot = some n → s.mayDrain n = true → s.drainFirst n = true →
      (∀ d ∈ s.drains, d.1 ≠ n.part ∧ d.2.1 ≠ slot) →
      s.drainSet n ≠ [] →
      ∃ t, exec (.clusterDrain slot) s = .next t ∧ t.drains = s.drains ++ [(n.part, slot, s.drainSet n)]) ∧
    (∀ slot n, s.node slot = some n → n.counting = true →
      (n.half = false → s.watchLimit n * periodTenths ≤ 2 * s.counted n →
        ∃ t, exec (.watchdogHalfLimit slot) s = .next t ∧ (∀ m ∈ t.nodes, m.slot = slot → m.half = true) ∧
          (s.cur.status = .running → s.cur.slot = slot → (t.cur.cr 28).getLsbD 2 = true ∧ KeptBut [.c 28] s.cur t.cur)) ∧
      (s.watchLimit n * periodTenths ≤ s.counted n →
        ((wordAt n.words 0).getLsbD 31 = true → n.replay = false →
          ∃ t, exec (.watchdogExpiry slot) s = .next t ∧ ∀ m ∈ t.nodes, m.slot = slot → m.stat = .ready ∧ m.replay = true) ∧
        ((wordAt n.words 0).getLsbD 31 = false ∨ n.replay = true → wordAt n.words 10 = 0 →
          n.stat ≠ .running ∨ (∀ c ∈ s.resident n.cluster, c.slot = slot) →
          ∃ t, exec (.watchdogExpiry slot) s = .next t ∧ ∀ m ∈ t.nodes, m.slot ≠ slot))) ∧
    (periodTenths * (s.period + 1) ≤ 10 * s.time → (s.counters.map (·.1)).Nodup →
      ∃ t, exec .timeBasePeriod s = .next t ∧ t.period = s.period + 1 ∧ (∀ p c, t.dispatched p c = s.dispatched p c / 2) ∧
        ∀ ch < 128, ∀ a, t.credit ch a = s.allowance a + min (s.credit ch a) 0) ∧
    (∀ o, exec (.resourceGrant o .cachePort) s = .next s) ∧
    (let c := s.cur
     c.status = .running → c.wgt ≠ 0 →
      let granted (t : State) (asks : List Ask) : Prop :=
        exec (.resourceGrant c.cluster .matrixQueue) s = .next t ∧ { t with cur := c, asks := s.asks } = s ∧ t.asks = asks
      (s.others = [] → s.asks = [{ res := 1, slot := c.slot }] → c.mq.length < 16 →
        ∃ t, granted t [{ res := 1, slot := c.slot, granted := true }] ∧ { t.cur with vtime := c.vtime } = c ∧
          t.cur.vtime.getD 1 0 = c.vtime.getD 1 0 + (256 + c.wgt - 1) / c.wgt) ∧
      ∀ d, s.others = [d] → d.status = .running → d.cluster = c.cluster → d.slot ≠ c.slot → d.wgt ≠ 0 →
        c.vtime.getD 1 0 < d.vtime.getD 1 0 → c.mq.length + d.mq.length < 16 →
        s.asks = [{ res := 1, slot := d.slot }, { res := 1, slot := c.slot }] →
        ∃ t, granted t [{ res := 1, slot := d.slot }, { res := 1, slot := c.slot, granted := true }]) ∧
    (s.cur.status = .running → s.cur.monitor.isSome = true → s.cur.heard = none → s.wfeOver s.cur = true →
      ∃ t, exec (.wfeWake s.cur.slot .timeout) s = .next t ∧ t = { s with cur := { s.cur with heard := some .timeout } })

/-! ### Caches, homes, streams and the stager -/

/-- R32, R35, R41, R44, R55, R69, R70, R104, R109, R117: what caches, homes and stream engines do on their own changes the memory
system alone. A replaced line is gone, a sweep leaves no dirty byte in any L1 or cluster cache, a clean line becomes stale with its
contents, a stale one is fetched afresh, a write whose predecessors are applied reaches its home, and a beacon tells of the writes
applied at a die. A stalled context comes into focus, a hint does nothing, and a stream engine moves no element of its stream.
When each event happens is the agenda's (log 2); sets and the line replaced are the model's (log 10). -/
def Obligations.CacheEvents : Prop :=
  ∀ (s : State) (k : CacheKind) (o l : Nat),
    (∃ t, exec (.lineWriteBack k o l) s = .next t ∧ MemoryOnly s t ∧ match k with
      | .l1 => cacheFind t.l1 o l = none
      | .cluster => cacheFind t.cc o l = none
      | .l2 => cacheFind t.l2 o l = none
      | .gathered => ∀ g ∈ t.gath, ¬ (g.owner = o ∧ g.first / 128 = l)) ∧
    (∃ t, exec .dirtyWriteBackSweep s = .next t ∧ MemoryOnly s t ∧ (∀ c ∈ t.l1, c.dirty = 0) ∧ ∀ c ∈ t.cc, c.dirty = 0) ∧
    (∃ t, exec (.lineStaleTimeout k o l) s = .next t ∧ MemoryOnly s t ∧ t.mem = s.mem ∧ t.l2 = s.l2 ∧
      (k = .l1 → ∀ c, cacheFind s.l1 o l = some c → c.dirty = 0 → cacheFind t.l1 o l = some { c with stale := true }) ∧
      (k = .cluster → ∀ c, cacheFind s.cc o l = some c → c.dirty = 0 → cacheFind t.cc o l = some { c with stale := true })) ∧
    (∃ t, exec (.lineFillReturn k o l) s = .next t ∧ MemoryOnly s t ∧
      (k = .l1 → ∀ c, cacheFind s.l1 o l = some c → c.stale = true → ∃ d, cacheFind t.l1 o l = some d ∧ d.stale = false) ∧
      (k = .cluster → ∀ c, cacheFind s.cc o l = some c → c.stale = true → ∃ d, cacheFind t.cc o l = some d ∧ d.stale = false)) ∧
    (∀ w, (s.sends.find? fun x => x.origin == o) = some w → s.canApply w = true →
      ∃ t, exec (.homeApplyWrite o) s = .next t ∧ MemoryOnly s t ∧ (∀ x ∈ t.sends, ¬ (x.origin = w.origin ∧ x.num = w.num)) ∧
        (w.mask = fullMask → region (128 * w.line) ∈ [.cap, .reserve] ∨ (region (128 * w.line) = .fast ∧ w.chan = true) →
          t.mem.line w.line = w.data) ∧
        (region w.pa = .device → t.mem = s.mem ∧ t.l2 = s.l2)) ∧
    (∀ die < 5, ∃ t m, exec (.watermarkBeacon die) s = .next t ∧ { t with marks := s.marks } = s ∧ (die, m) ∈ t.marks ∧
      m.length = 5 ∧ ∀ i < 5, m.getD i 0 = match s.sends.find? fun x => x.origin == i && homeDie x.line == die with
        | some x => x.num - 1
        | none => s.counts.getD i 0) ∧
    (∀ c, (s.others.find? fun x => x.slot == o && x.status == .running && x.held) = some c →
      (∀ d ∈ s.others, d.status = .running → d.hartNum = c.hartNum → d = c) →
      ∃ t, exec (.stalledWriteResume o) s = .next t ∧ t.cur = c ∧ { t with cur := s.cur, others := s.others } = s) ∧
    (∀ idle, exec (.rowActivateHint l idle) s = .next s) ∧
    (s.cur.status = .running → ∀ i ∈ [Instr.chainHeaderRead s.cur.slot l, .chainPrefetch s.cur.slot l],
      ∃ t, exec i s = .next t ∧ MemoryOnly s { t with cur := s.cur } ∧
        KeptBut [.c 21] (unheard s.cur) { unheard t.cur with q := s.cur.q } ∧ t.cur.pc = s.cur.pc ∧
        ∀ n, { t.cur.q.getD n {} with links := [] } = { s.cur.q.getD n {} with links := [] })

/-- R37-R40, R64-R67, R72, R74, R80: the stager begins a migration with a frame of its pool and ends one it has begun, once every
access under the old entry has been made; the scrubber turns an uncorrectable error into poison and a log record; a scrubbed frame reads zero everywhere and is out of quarantine; a frame is
assigned by its table entry, whose quarantine bit only the scrubber clears; and a rekeyed slot has a new generation and no line in
the L2. Stager, scrubber and table write nothing while a start is under way.
That a migration is two events is the model's choice (log 58). -/
def Obligations.StagerEvents : Prop :=
  ∀ (s : State) (slot page frame line key allot p : Nat) (val : Byte),
    (∀ m, (s.migs.find? fun m => m.up && m.page == page && (s.node slot).all (fun n => n.part == m.part && n.asid == m.asid)) = some m →
      (s.mayInvalidate m.part m.old = true →
        ∃ t, exec (.stagerPromotion slot page) s = .next t ∧ t.migs = s.migs.filter (· != m) ∧
          (m.part, m.asid, m.page, m.wi) ∈ t.promoted) ∧
      (s.mayInvalidate m.part m.old = false → exec (.stagerPromotion slot page) s = .next s)) ∧
    (∀ n e l f u, (∀ m ∈ s.migs, ¬ (m.up = true ∧ m.page = page)) → s.node slot = some n → n.entryOf page = some e →
      s.pageLeaf n.part n.asid page = some l → s.starting = false → s.stageOn n.part = true → l.tier = true → l.big = false →
      l.m = false → s.migs.length < 64 → s.mayInvalidate n.part l.frame = true → s.popFrame n.part true 65536 = (some f, u) → s.mayStage f = true →
      ∃ t, exec (.stagerPromotion slot page) s = .next t ∧ t.migs = s.migs ++
        [{ part := n.part, asid := n.asid, entry := l.entry, old := l.frame, new := f, up := true, page := page, wi := e.1.getLsbD 1 }]) ∧
    (∀ m, (s.migs.find? fun m => !m.up && m.part == p) = some m → s.mayInvalidate m.part m.old = true →
      ∃ t, exec (.stagerDemotion p) s = .next t ∧ t.migs = s.migs.filter (· != m) ∧ (m.part, m.entry) ∉ t.marked ∧
        ∀ x ∈ t.promoted, x.1 = p → ∀ l, t.pageLeaf x.1 x.2.1 x.2.2.1 = some l → l.entry ≠ m.entry) ∧
    (∀ l f u, (∀ m ∈ s.migs, ¬ (m.up = false ∧ m.part = p)) → s.demotable p = some l → s.starting = false → s.stageOn p = true → s.migs.length < 64 →
      s.mayStage l.frame = true → s.popFrame p false 65536 = (some f, u) →
      ∃ t, exec (.stagerDemotion p) s = .next t ∧ t.migs = s.migs ++
        [{ part := p, asid := 0, entry := l.entry, old := l.frame, new := f, up := false, page := 0, wi := false }]) ∧
    (∃ t, exec (.stagingWaitExpiry slot) s = .next t ∧ t = s) ∧
    (s.starting = true → ∀ i ∈ [Instr.patrolScrubLine line .uncorrectable, .frameScrub frame, .frameOwnerTableWrite frame val],
      exec i s = .next s) ∧
    (s.starting = false →
      let within (n : Int) : Prop :=
        region (128 * line) ∈ [.cap, .reserve] ∨ (region (128 * line) = .fast ∧ n ≤ s.credit (sliceOf line) .scrub)
      (within 1 → (∀ e ∈ s.latent, e.1 ≠ line) →
        ∃ t, exec (.patrolScrubLine line .clean) s = .next t ∧ { t with credits := s.credits } = s) ∧
      ∀ found, found ≠ .clean → within 2 → ∃ t r, exec (.patrolScrubLine line found) s = .next t ∧ r ∈ t.log ∧ r.pa = 128 * line ∧
        r.part = 16 ∧ r.time = s.time ∧ t.mem.cells = s.mem.cells ∧ t.latent = s.latent.filter (fun e => e.1 != line) ∧
        ∀ l, t.mem.poisoned l = (s.mem.poisoned l || ((found == .uncorrectable || s.latent.contains (line, true)) && l == line))) ∧
    (s.starting = false → (s.frameByte frame).getLsbD 6 = true → s.frameBusy frame = false → (∀ q, s.settles q = true) →
      ∃ t, exec (.frameScrub frame) s = .next t ∧ t.frameByte frame = s.frameByte frame &&& 0xBF ∧
        ∀ a, a / 65536 = frame → t.mem.byte a = 0 ∧ t.mem.poisoned (a / 128) = false) ∧
    (s.starting = false →
     let v := (val &&& 0xCF) ||| (s.frameByte frame &&& 0x40)
     (region (65536 * frame) = .cap ∨ (region (65536 * frame) = .fast ∧
        (val.getLsbD 7 = true → s.octetPart (octetOf (65536 * frame)) = some (bits val 0 4))) →
      ∃ t, exec (.frameOwnerTableWrite frame val) s = .next t ∧ t.frameByte frame = v ∧ { t with fot := s.fot } = s) ∧
      (region (65536 * frame) = .fast → val.getLsbD 7 = true → s.octetPart (octetOf (65536 * frame)) ≠ some (bits val 0 4) →
      ∃ t, exec (.frameOwnerTableWrite frame val) s = .next t ∧ t.fot = s.fot)) ∧
    ∃ t, exec (.keySlotRekey key allot) s = .next t ∧ t.keyGen (key % 1024) = s.keyGen (key % 1024) + 1 ∧
      (∀ c ∈ t.l2, c.key ≠ key % 1024) ∧ MemoryOnly s { t with keys := s.keys }

/-! ### Engines, bank cores, device registers, resets and links -/

namespace Sys2Proof.Claims

/-- The byte that the last of some writes, each with its line, gives at an address. -/
def lastByte (ws : List (Nat × EngWrite)) (x : Nat) : Option Byte :=
  (ws.reverse.find? fun e => e.1 == x / 128 && e.2.mask.getLsbD (x % 128)).map fun e =>
    BitVec.ofNat 8 (lineGet e.2.data (x % 128) 1)

/-- The bytes that a copy's writes move (R308): into the tiles of its cluster, or into DRAM below the L2, where no write to memory
waits before them (R109). Every other byte of the tiles, and every other line of DRAM, is as before. -/
def CopyLands (c : EngCmd) (out : List EngWrite) (s t : State) : Prop :=
  ((∀ w ∈ out, w.tile = true ∧ w.addr < 2 ^ 23) → s.tmem.wf = true → ∀ x, t.tmem.byte x =
      if x / 2 ^ 23 = c.cluster then (lastByte (out.map fun w => (w.addr / 128, w)) (x % 2 ^ 23)).getD (s.tmem.byte x)
      else s.tmem.byte x) ∧
    (c.cluster < 128 → s.counts.length = 5 → s.clocks.length = 5 → (∀ v ∈ s.clocks, v.length = 5) → s.sends = [] → s.latent = [] →
      s.mem.wf = true →
      (∀ w ∈ out, w.tile = false ∧ ∃ l, leafAt c.pages w.addr = some l ∧ belowL2 (w.addr / 65536, l)) →
      let ws := out.filterMap fun w => (leafAt c.pages w.addr).map fun l => (l.pa w.addr / 128, w)
      (∀ x b, lastByte ws x = some b → t.mem.byte x = b) ∧
        ∀ l, (∀ e ∈ ws, e.1 ≠ l) → t.mem.line l = s.mem.line l)

/-- The line of DRAM at a VA of a command's pages. -/
def bankLine (c : BankCmd) (va : Nat) : Option Nat :=
  (leafAt c.pages va).bind fun l => if l.d then none else some (l.pa va / 128)

/-- The record of a command and its `n` outputs of `w` bytes stand in captured pages without D: no output in the line of the record or in
one that the command reads, and no line under two VAs (R325-R328). -/
def BankApart (c : BankCmd) (n w : Nat) : Prop :=
  (w = 1 ∨ w = 2 ∨ w = 4 ∨ w = 8) ∧ c.d % w = 0 ∧ c.recVa.toNat % 128 = 0 ∧
    (∀ j < n, ∃ x, bankLine c (c.d + j * w) = some x ∧ bankLine c c.recVa.toNat ≠ some x ∧ ∀ va ∈ c.readVas, bankLine c va ≠ some x) ∧
    ∀ i < n, ∀ j < n, bankLine c (c.d + i * w) = bankLine c (c.d + j * w) → (c.d + i * w) / 128 = (c.d + j * w) / 128

/-- Element `i` of an input of a command; zero where the input is not given (R325). -/
def bankInput (s : State) (c : BankCmd) (b i : Nat) : Nat := if b = 0 then 0 else (s.bankGet c (b + i * c.wb) c.ty.bits).1

/-- The sum of block `j` of a dot or reduce (R329): exact for i8, the block sum of exact products for a format, with zeros from element
`n` up. -/
def blockValue (s : State) (c : BankCmd) (j : Nat) : Nat :=
  let el (b k : Nat) : Nat := (s.bankGet c (b + (32 * j + k) * c.wb) c.ty.bits).1
  if c.ty = .i8 then
    ofSigned 32 ((List.range 32).map fun k => if 32 * j + k < c.n then toSigned 8 (el c.a k) * toSigned 8 (el c.b k) else 0).sum
  else
    blockSum ((List.range 32).map fun k =>
      if 32 * j + k < c.n then mulExact (decodeFp (fmtOf c.ty) (el c.a k)) (decodeFp (fmtOf c.ty) (el c.b k))
      else some (.fin false 0 0))

/-- What a map, dot or reduce that has ended leaves in D (R328, R329), its inputs read in `s`: a map its expression of each element, a
dot each block's sum, a reduce the blocks' sums added in some order. -/
def BankLeaves (c : BankCmd) (s t : State) : Prop :=
  (c.kind = 0 → c.ty.bits = 8 * c.wb → BankApart c c.n c.wb → ∀ i < c.n, ∀ x,
    evalPostfix c.ty c.expr c.consts (s.bankGet c (c.a + i * c.wb) c.ty.bits).1 (bankInput s c c.b i) (bankInput s c c.c i) = some x →
    (t.bankGet c (c.d + i * c.wb) c.ty.bits).1 = x % 2 ^ c.ty.bits) ∧
  (c.seen = [] → c.acc = none → (∀ m ∈ s.boxes, m.cmd ≠ c.id) →
    (c.kind = 1 → BankApart c (ceilDiv c.n 32) 4 → ∀ j < ceilDiv c.n 32,
      (t.bankGet c (c.d + j * 4) 32).1 = blockValue s c j % 2 ^ 32) ∧
    (c.kind = 2 → BankApart c 1 4 → ∃ l : List Nat, l.Perm (List.range (ceilDiv c.n 32)) ∧
      (t.bankGet c c.d 32).1 =
        ((l.foldl (fun (a : Option (BitVec 32)) j => some (foldPartial c.ty a (blockValue s c j))) none).getD 0).toNat))

/-- What entry `q` of a gather brings, with its number (R332, R333): what its core has sent, taken or still in its mailbox, or else the
element as it stands, with its poison. -/
def gatherData (s : State) (c : BankCmd) (q : (Nat × Nat) × Nat) : Nat × Bool :=
  match c.got.find? fun g => g.1 == q.2, s.boxes.find? fun m => m.cmd == c.id && m.block == q.2 with
  | some g, _ => (g.2, false)
  | none, some m => (m.data.toNat, false)
  | none, none => s.bankGet c q.1.1 c.ty.bits

/-- A gather's data in the pending result that waits for them (R332): the element of each entry, every other element as before, and a late
fault for the first entry that is poisoned. -/
def GatherFills (c : BankCmd) (s : State) (lanes : Nat) (p : Pending) (t : Ctx) : Prop :=
  ∀ v r, p.tag = c.tag → p.done = false → p.vals = v :: r → (c.entries.map (·.2)).Nodup → lanes ≠ 0 → lanes ≤ 32 → 0 < c.ty.bits →
    (∀ e ∈ c.entries, e.2 < lanes * 512 / c.ty.bits) → 512 % c.ty.bits = 0 →
    ∃ y, { p with done := true, vals := { v with val := y } :: r
                  late := ((c.entries.zipIdx.find? fun q => (gatherData s c q).2).map fun q =>
                    { code := 0x0E8, tval := BitVec.ofNat 64 (q.1.1 / 128 * 128) }) } ∈ t.pend ∧
      (∀ q ∈ c.entries.zipIdx, elemGet lanes c.ty.bits (BitVec.ofNat 16384 y) q.1.2 = (gatherData s c q).1 % 2 ^ c.ty.bits) ∧
      ∀ j < lanes * 512 / c.ty.bits, (∀ e ∈ c.entries, e.2 ≠ j) →
        elemGet lanes c.ty.bits (BitVec.ofNat 16384 y) j = elemGet lanes c.ty.bits (BitVec.ofNat 16384 v.val) j

end Sys2Proof.Claims

/-- R308, R311, R312, R315-R317, R326, R328-R333: the events of the engines and bank cores. A copy that ends has put its bytes at the
destination. A copy or sort that ends gives its context
its tiles back, or ends its engine node, and a sort that meets poison posts 3.4.2; a parked sort waits, and works again when it
resumes. A command of a context that is off its hart keeps its tiles until the resume. A bank command that ends has written its results
and BDONE and leaves its cores, and one that stops says so in BDONE and to its context; a partial is written into a mailbox, and then
folded into its reduce; a gather's data return to its pending result, element by element; and a scatter-add updates one element.
That a command acts whole when it completes is the model's choice (log 43). -/
def Obligations.EngineEvents : Prop :=
  ∀ (s : State),
    (∀ c, s.cmd c.id = some c → c.op ≠ .sort → c.running = true →
      let home := (s.ctxOf c.slot).all fun x => x.status == .running
      ∃ t, exec (.engineCommandComplete c.id) s = .next t ∧
        (∀ out m, c.op = .copy out m → c.node = false → CopyLands c out s t) ∧
        (c.node = true → ∀ m ∈ t.nodes, m.slot ≠ c.slot) ∧
        (c.node = false → home = false → t.tiles = s.tiles ∧ ∀ k ∈ t.cmds, k.id = c.id → k.ended = true ∧ k.running = false) ∧
        (c.node = false → home = true → t.cmds = s.cmds.filter (·.id != c.id) ∧ ContextKept [] s t ∧ t.cur.pc = s.cur.pc ∧ t.nodes = s.nodes ∧
          ∀ n ∈ c.tiles, tileKind (s.tile c.cluster n).owner = 2 → tileNode (s.tile c.cluster n).owner = c.slot →
            (t.tile c.cluster n).owner = ownerField 1 0 (tilePart (s.tile c.cluster n).owner) 0 c.slot)) ∧
    (∀ o c, s.sortTurn o = some c → c.node = false → (s.ctxOf c.slot).all (fun x => x.status == .running) = true →
      let n := c.tiles.getD 0 0
      let good := s.rallyPoison c.cluster n (2 ^ hdrLog (s.rallyHdr c.cluster n)) = none
      let u := s.rallyRun c rallyLimit
      (s.mustPark c = false → good → hdrSt (u.rallyHdr c.cluster n) = 2 →
        ∃ t, exec (.rallySortDone o) s = .next t ∧ t.cmds = s.cmds.filter (·.id != c.id) ∧ t.tmem = u.tmem ∧ t.cur = s.cur) ∧
      (∀ off, s.mustPark c = false → s.rallyPoison c.cluster n (2 ^ hdrLog (s.rallyHdr c.cluster n)) = some off →
        s.cur.status = .running → s.cur.slot = c.slot →
        ∃ t, exec (.rallySortDone o) s = .next t ∧ t.cmds = s.cmds.filter (·.id != c.id) ∧ t.tmem = s.tmem ∧
          { t.cur with posted := s.cur.posted } = s.cur ∧
          ∃ p, t.cur.posted = s.cur.posted ++ [p] ∧ p.code = 0x0E2 ∧ p.tiles = c.tiles) ∧
      ∀ steps d, (∃ w ∈ s.sortsWaiting o, s.cmdClass w < s.cmdClass c) → (s.sortSteps c steps).cmd c.id = some d → d.ended = false →
        ∃ t, exec (.rallyPark o steps) s = .next t ∧ { d with running := false, parked := true } ∈ t.cmds ∧
          ∀ k ∈ t.cmds, k.id = c.id → k.parked = true ∧ k.running = false) ∧
    (∀ o c, s.sortTurn o = none → s.sortParked o = some c → c.node = false → s.mustPark c = false →
      let n := c.tiles.getD 0 0
      s.rallyPoison c.cluster n (2 ^ hdrLog (s.rallyHdr c.cluster n)) = none → hdrSt ((s.rallyRun c 0).rallyHdr c.cluster n) ≠ 2 →
        ∃ t, exec (.rallyResume o) s = .next t ∧ t.cur = s.cur ∧ ∀ k ∈ t.cmds, k.id = c.id → k.running = true ∧ k.parked = false) ∧
    (∀ c, s.bankCmd c.id = some c → s.bankTurn c = true → c.node = false → c.owed = [] →
      let met := s.bankMeet c (s.unread c c.units)
      let done (t : State) : Nat := (t.bankGet c (c.recVa.toNat + 0x58) 64).1
      let gone (t : State) : Prop := t.bank = s.bank.filter (·.id != c.id) ∧ t.nodes = s.nodes ∧ t.tmem = s.tmem
      let held : Prop := c.recVa.toNat % 128 = 0 ∧ ∃ l, leafAt c.pages (c.recVa.toNat + 0x58) = some l ∧ l.d = false
      (c.kind ≤ 2 → met.firstBad c = none →
        ∃ t, exec (.bankCommandComplete c.id) s = .next t ∧ gone t ∧ ContextKept [] s t ∧ (held → done t = 2 ^ 63 + c.n % 2 ^ 40) ∧
          BankLeaves c met t) ∧
      (c.kind ≤ 2 → ∀ i e, met.firstBad c = some (i, e) → s.cur.status = .running → s.cur.slot = c.slot →
        ∃ t, exec (.bankCommandStop c.id) s = .next t ∧ gone t ∧ (held → done t / 2 ^ 40 = 2 ^ 23 + 2 ^ 22 + e * 2 ^ 8) ∧
          t.cur.posted = s.cur.posted ++ [{ code := e, tval := c.recVa, unit := 5 }] ∧
          KeptBut [] (unheard s.cur) { unheard t.cur with posted := s.cur.posted }) ∧
      (c.kind = 2 → ∀ k x, k < (c.n + 31) / 32 → k ∉ c.seen → let v := s.bankMeet c (s.unread c [32 * k])
        v.blockOf c k = .ok x →
        (∀ m ∈ s.boxes, ¬ (m.cmd = c.id ∧ m.block = k)) → s.wakeOf (c.boxTo k) ≠ BitVec.allOnes 8 →
        ∃ t m, exec (.mailboxMessage c.id k) s = .next t ∧ t.boxes = s.boxes ++ [m] ∧ m.core = c.boxTo k ∧ m.box < 8 ∧ m.cmd = c.id ∧
          m.block = k ∧ m.data = BitVec.ofNat 512 x ∧ (s.wakeOf m.core).getLsbD m.box = false ∧
          (t.wakeOf m.core).getLsbD m.box = true ∧ { t with boxes := s.boxes, wake := s.wake } = v) ∧
      (c.kind = 2 → ∀ m r, s.boxes = m :: r → m.cmd = c.id →
        ∃ t d, exec (.mailboxMessage c.id m.block) s = .next t ∧ t.mail = s.mail ++ [(c.id, m.block)] ∧ t.bankCmd c.id = some d ∧
          d = { c with seen := c.seen ++ [m.block], acc := some (foldPartial c.ty c.acc (m.data.toNat % 2 ^ 32)) } ∧
          m ∉ t.boxes ∧ { t with bank := s.bank, mail := s.mail, boxes := s.boxes, wake := s.wake } = s) ∧
      (c.kind = 3 → s.cur.status = .running → s.cur.slot = c.slot →
        let v := s.bankMeet c (s.unread c (List.range c.entries.length))
        ∃ t, exec (.bgathDataReturn c.id) s = .next t ∧ gone t ∧ { unheard t.cur with pend := s.cur.pend } = unheard s.cur ∧
          t.mem = (v.gatherUse c).mem ∧ (∀ p ∈ t.cur.pend, p.tag = c.tag → p.done = true) ∧
          ∀ p ∈ s.cur.pend, GatherFills c v s.cur.lanes p t.cur) ∧
      (c.kind = 4 → ∀ e r, c.entries = e :: r →
        let w := c.ty.bits
        let met := s.bankMeet c [e.1]
        (met.bankGet c e.1 w).2 = false →
        ∃ t, exec (.bscaddUpdate c.id) s = .next t ∧ ContextKept [] s t ∧ t.nodes = s.nodes ∧ t.tmem = s.tmem ∧
          (r = [] → t.bank = s.bank.filter (·.id != c.id)) ∧
          (r ≠ [] → ∃ d, t.bankCmd c.id = some d ∧ { d with owed := [] } = { c with entries := r, done := c.done + 1 } ∧
            d.owed = d.load) ∧
          (w % 8 = 0 → e.1 % 128 + w / 8 ≤ 128 → (∃ l, leafAt c.pages e.1 = some l ∧ l.d = false) → c.ty.isFp = false →
            (t.bankGet c e.1 w).1 = ((met.bankGet c e.1 w).1 + e.2) % 2 ^ w)))

namespace Sys2Proof.Claims

/-- Of the state only the registers of partition `p` changed, to `r`. -/
def PartBecomes (s t : State) (p : Nat) (r : Part) : Prop :=
  { t with parts := s.parts } = s ∧ t.partReg p = r ∧ ∀ q, q ≠ p → t.partReg q = s.partReg q

/-- A write was ignored and logged under partition `p` (R57, R339, R383, R384). -/
def Ignored (s t : State) (p : Nat) : Prop :=
  { t with log := s.log, msix := s.msix } = s ∧ ∃ r ∈ t.log, r.part = p ∧ r.time = s.time ∧ r.count = 1

end Sys2Proof.Claims

/-- R56, R57, R63, R339, R383-R386: the device registers. LAUNCH makes the ring's entries pending, which are taken one by one;
INTPOST raises a vector; L2SCR sets ways aside, which read zero once they are converted; PSCHED, PPOL, the staging registers and the
partition's resources are written where the rules allow it, and otherwise the write is ignored and logged. Each register stands at
its offset, and one access of a wide one is one change of it.
That clearing STGSTAT.VALID leaves CAUSE and VPAGE is the model's choice (log 34), when a partition is in use for R384 its
reading (log 33), and its choice too that L2SCR.WAYS reads as it was until BUSY clears and that a write of the present WAYS also sets BUSY
and empties the window (R57, log 95). -/
def Obligations.DeviceRegisters : Prop :=
  ∀ (s : State) (p : Nat) (val : Word), p < 16 →
    let r := s.partReg p
    let sets (i : Instr) (x : Part) : Prop := ∃ t, exec i s = .next t ∧ PartBecomes s t p x
    let logs (i : Instr) : Prop := ∃ t, exec i s = .next t ∧ Ignored s t p
    let off := 65536 * (p + 1)
    let wide : LineVal := val.setWidth 1024
    (let n := (val.setWidth 12 - r.subci).toNat
     (n ≤ 2048 → (r.launch - r.subci).toNat ≤ n → sets (.launch p val) { r with launch := val.setWidth 12 }) ∧
      (2048 < n ∨ n < (r.launch - r.subci).toNat → logs (.launch p val))) ∧
    (r.launch ≠ r.subci → s.rstctl.getLsbD 31 = false →
      (region r.subbase.toNat ≠ .hole →
        ∃ t, exec (.submissionRingEntry p) s = .next t ∧ (t.partReg p).subci = r.subci + 1 ∧
          ∀ x u, s.ringRead (r.subbase.toNat + 16 * (r.subci.toNat % 2048)) = ((x, false), u) →
            let w0 : Word := BitVec.ofNat 64 x
            let w1 : Word := BitVec.ofNat 64 (x / 2 ^ 64)
            ringOk w0 w1 = true → w0.getLsbD 0 = false → ∀ v, u.submit p (bits w1 0 12) (w0 &&& 0x007FFFFFFFFFFF80) = .ok v →
              t.nodes = v.nodes) ∧
      (region r.subbase.toNat = .hole → exec (.submissionRingEntry p) s = .fault (.noSuchAddress r.subbase.toNat))) ∧
    (bits val 0 4 ≠ 1 → bits val 0 4 ≠ 2 →
      ∃ t, exec (.intpost p val) s = .next t ∧ { t with msix := s.msix } = s ∧ t.msix = s.msix ++ [(p, bits val 0 4)]) ∧
    (bits val 0 4 = 1 ∨ bits val 0 4 = 2 → logs (.intpost p val)) ∧
    (bits val 0 4 ≤ 12 → r.l2scr.getLsbD 31 = false →
      sets (.l2scr p val) { r with l2scr := r.l2scr ||| 0x80000000, l2next := BitVec.ofNat 4 (bits val 0 4) }) ∧
    (13 ≤ bits val 0 4 ∨ r.l2scr.getLsbD 31 = true → logs (.l2scr p val)) ∧
    (r.l2scr.getLsbD 31 = true →
      ∃ t, exec (.l2WayConversionDone p) s = .next t ∧ MemoryOnly s { t with l2s := s.l2s, parts := s.parts } ∧
        t.partReg p = { r with l2scr := r.l2next.setWidth 32, l2next := 0 } ∧
        ∀ k ∈ s.partSlices p, ∀ a, a / 2 ^ 20 = k → t.l2s.byte a = 0) ∧
    (bits val 16 8 ≠ 0 → bits val 32 16 ≠ 0 → sets (.psched p val) { r with psched := val &&& 0x0000FFFF00FF00FF }) ∧
    (bits val 16 8 = 0 ∨ bits val 32 16 = 0 → logs (.psched p val)) ∧
    (bits val 0 3 = 3 ∨ bits val 0 3 = 4 →
      (s.enabled p = false ∨ val.getLsbD 31 = true → sets (.ppol p val) { r with ppol := val &&& 0x80000707 }) ∧
      (s.enabled p = true → val.getLsbD 31 = false → OnlySlot s → s.cur.part = p → s.switchWaits s.cur = false →
        s.gathering s.cur.slot = false →
        ∃ t, exec (.ppol p val) s = .next t ∧ t.cur.status = .idle ∧ (t.partReg p).ppol = val &&& 0x80000707)) ∧
    (bits val 0 3 ≠ 3 → bits val 0 3 ≠ 4 → logs (.ppol p val)) ∧
    (∀ k x, (s.partitionBusy p = true → logs (.partitionResourceWrite p k x)) ∧
      ((∀ q < 16, s.partitionBusy q = false) → ∃ t, exec (.partitionResourceWrite p k x) s = .next t ∧
        (t.partReg p).owned k = x % 2 ^ resBits k ∧ ContextKept [] s t ∧
        ∀ q < 16, q ≠ p → ∀ i < resBits k, x.testBit i = true → (r.owned k).testBit i = false →
          ((t.partReg q).owned k).testBit i = false)) ∧
    sets (.stgstat p val) { r with stgstat := if val.getLsbD 63 then r.stgstat &&& 0x7FFFFFFFFFFFFFFF else r.stgstat } ∧
    sets (.stgctl p val) { r with stgctl := val.setWidth 32 &&& 0x8000FFFF } ∧
    (∀ e ∈ [(0x0, Instr.ppol p val), (0x108, .launch p val), (0x148, .intpost p val), (0x180, .l2scr p val),
        (0x1C0, .stgctl p val), (0x1C8, .stgstat p val), (0x200, .psched p val)],
      exec (.registerWrite (off + e.1) { n := 8, val := wide }) s = exec e.2 s) ∧
    sets (.registerWrite (off + 0x38) { n := 8, val := wide }) { r with tdirb := val &&& 0x0003FFFFFFFF0000 } ∧
    sets (.registerWrite (off + 0x100) { n := 8, val := wide }) { r with subbase := val &&& 0x0003FFFFFFFF8000 } ∧
    sets (.registerWrite (off + 0x140) { n := 8, val := wide }) { r with drcnt := val.setWidth 48 } ∧
    (∃ t, exec (.registerWrite 0x300 { n := 8, val := wide }) s = .next t ∧ t = { s with budg0 := val }) ∧
    logs (.registerWrite (off + 0x40) { n := 8, val := wide }) ∧
    ∀ x : LineVal,
      exec (.registerWrite (off + 0x10) { n := 16, val := x }) s = exec (.partitionResourceWrite p .pclu (x.toNat % 2 ^ 128)) s ∧
      exec (.registerWrite (off + 0x20) { n := 24, val := x }) s = exec (.partitionResourceWrite p .plink (x.toNat % 2 ^ 192)) s

/-- R72, R73, R77-R80, R389-R391: after a warm reset no cache holds a line, no context and no node is left, every partition's registers
are as at reset and BUSY is set; with KRET memory, its owners and keys stay, and without it every line is cleared and every key is
new. A cold start clears memory and boots a verified image, the recovery image where the flash image fails, and with none the module
stays busy; the warm start's end clears BUSY where a verified image runs; and an update changes nothing that runs.
That the frame owner table is cleared with the lines is the model's reading (log 31), that lanes and key allotments stay its choice
(log 36). POCT, PCLU, PLINK, TDIRB, SUBBASE and DRCNT have no reset value in the specification, nor have the partitions of the keys:
that `parts` is as `State.reset` has it, and that no key has a partition after a cold start, is the model's choice for these (log 1). -/
def Obligations.ResetEvents : Prop :=
  ∀ (s : State),
    (∀ i ∈ [Instr.warm, .faultTriggeredWarmReset], ∃ t, exec i s = .next t ∧ t.rstctl = s.rstctl ||| 0x80000000 ∧
      t.l1 = [] ∧ t.cc = [] ∧ t.gath = [] ∧ t.l2 = [] ∧ t.sends = [] ∧ t.tlb = [] ∧ t.icache = [] ∧ t.nodes = [] ∧
      t.cur.status = .idle ∧ t.others = [] ∧ t.tiles = [] ∧ t.tmem = {} ∧ t.l2s = {} ∧ t.streams = [] ∧ t.cmds = [] ∧ t.bank = [] ∧
      t.parts = State.reset.parts ∧ t.fw = s.fw ∧
      (s.rstctl.getLsbD 1 = true → t.fot = s.fot ∧ t.keys = s.keys ∧
        (s.l1 = [] → s.cc = [] → s.l2 = [] → s.sends = [] → s.migs = [] → t.mem = s.mem ∧ t.ktags = s.ktags)) ∧
      (s.rstctl.getLsbD 1 = false → t.mem = {} ∧ t.ktags = [] ∧
        t.keys = s.keys.map fun k => { k with gen := k.gen + 1 })) ∧
    (∃ t, exec .coldStart s = .next t ∧ t.mem = {} ∧ t.ktags = [] ∧ t.fot = [] ∧ t.nodes = [] ∧ t.cur.status = .idle ∧ t.l2 = [] ∧
      t.parts = State.reset.parts ∧ (∀ k ∈ t.keys, k.part = none) ∧
      (s.fw.verified = true → t.rstctl = 0 ∧ t.fw.running = s.fw.image) ∧
      (s.fw.verified = false → t.fw.recovery = true ∧ t.rstctl.getLsbD 31 = !t.fw.live ∧
        (t.fw.live = true → Config.fwValid t.fw.running = true ∧ s.fw.fuse ≤ Config.fwVersion t.fw.running))) ∧
    (∃ t, exec .warmStartComplete s = .next t ∧ { t with rstctl := s.rstctl } = s ∧ (s.fw.live = true → t.rstctl.getLsbD 31 = false) ∧
      (s.fw.live = false → t = s) ∧ ∀ k < 31, t.rstctl.getLsbD k = s.rstctl.getLsbD k) ∧
    ∀ image, ∃ t, exec (.firmwareUpdate image) s = .next t ∧ { t with fw := s.fw } = s ∧ t.fw.running = s.fw.running ∧
      t.fw.fuse = s.fw.fuse

namespace Sys2Proof.Claims

/-- How often a flit's replay has failed at a port (R388). -/
def failCount (l : Link) (seq : Nat) : Nat := ((l.fails.find? fun e => e.1 == seq).map (·.2)).getD 0

end Sys2Proof.Claims

/-- R55, R75, R80, R131, R345, R382, R387, R388, R392-R394: the module's edge. A flit is delivered in order, discarded, counted and asked
for again where it fails, and sent again where it is asked for; sixteen errors on a lane in 1 ms show it to be failing; a port that
fails is repaired, retrained or down, and what waited at it leaves once it takes flits. Accesses from outside perform at the home of their
line, an address in no region stops the machine, and none is taken while BUSY is set. The power manager sets the issue limits, and
the management controller answers.
That a replay acknowledges the flits before it, and how the count that leads to a retrain runs, is the model's reading (log 38). The
answers' contents, the wiring of the ports and the place of the frame owner table are constants without a body (logs 29, 30 and 93). -/
def Obligations.EdgeEvents : Prop :=
  ∀ (s : State),
    (∀ k seq, k < 144 → (s.linkOf k).up = true →
      let l := s.linkOf k
      let becomes (i : Instr) (P : Link → Prop) : Prop :=
        ∃ t, exec i s = .next t ∧ { t with links := s.links } = s ∧ P (t.linkOf k) ∧ ∀ j, j ≠ k → t.linkOf j = s.linkOf j
      let empties (i : Instr) (P : Link → Prop) : Prop :=
        ∃ t, exec i s = .next t ∧ { t with links := s.links, outbox := s.outbox } = s ∧ t.outbox = s.outbox ++ l.queue ∧
          (t.linkOf k).queue = [] ∧ P (t.linkOf k) ∧ ∀ j, j ≠ k → t.linkOf j = s.linkOf j
      (seq = l.rxNext → becomes (.linkFlitReceive k seq true) (fun m => m.got = l.got ++ [seq] ∧ m.rxNext = (l.rxNext + 1) % 4096)) ∧
      (seq ≠ l.rxNext → exec (.linkFlitReceive k seq true) s = .next s) ∧
      becomes (.linkFlitReceive k seq false) (fun m => m.got = l.got ∧ m.rxNext = l.rxNext ∧ m.wants = l.wants ++ [seq] ∧
        (4 ≤ failCount l seq + 1 ∨ l.stuck = true → m.stuck = true) ∧ failCount m seq = failCount l seq + 1 ∧ (∀ q, q ≠ seq → failCount m q = failCount l q) ∧
        ∃ lane, (l.lane = none → lane < 2) ∧ (∀ x, l.lane = some x → lane = x) ∧
          m.errors = (l.errors.filter fun e => s.time ≤ e.1 + 2700000) ++ [(s.time, lane)] ∧
          m.failing = if 16 ≤ (m.errors.filter fun e => e.2 == lane).length ∧ l.lane = none ∧ l.failing = none then some lane
            else l.failing) ∧
      (l.unacked seq = true → becomes (.linkReplay k seq) (fun m => m.acked = seq ∧ m.asked = seq ∧ m.txNext = l.txNext ∧
        (m.replays = if l.asked = seq then l.replays + 1 else 1) ∧ m.stuck = (l.stuck || decide (4 ≤ m.replays)))) ∧
      (l.unacked seq = false → exec (.linkReplay k seq) s = .next s) ∧
      (∀ lane, l.failing = some lane → l.stuck = false → empties (.laneRepair k lane) (fun m =>
        m.lane = some (1 - lane) ∧ m.failing = none ∧ (l.queue = [] → m.acked = l.txNext ∧ m.txNext = l.txNext))) ∧
      (l.stuck = false ∨ 3 ≤ l.retrains → ∀ ok, exec (.retrain k ok) s = .next s) ∧
      (l.stuck = true → l.retrains < 3 → empties (.retrain k true) (fun m => m.stuck = false ∧ m.lane = none ∧ m.failing = none ∧
          (l.queue = [] → m.acked = l.acked ∧ m.txNext = l.txNext)) ∧
        becomes (.retrain k false) (fun m => m.retrains = l.retrains + 1)) ∧
      (3 ≤ l.retrains → ∃ t, exec (.portDown k) s = .next t ∧ (t.linkOf k).up = false ∧ MemoryOnly s t ∧
        (l.queue = [] → (∃ r ∈ t.log, r.part = s.portPart k ∧ r.time = s.time) ∧
          { t with links := s.links, log := s.log, msix := s.msix } = s))) ∧
    (∀ pa n val wr bad relaxed, region pa ≠ .device →
      let all := [Instr.remoteAccess wr pa n { val := val, bad := bad }, .rootPortWrite pa n val relaxed, .rootPortRead pa n,
        .applicationCoreAccess wr pa n val]
      (region pa = .hole → ∀ i ∈ all, exec i s = .fault (.noSuchAddress pa)) ∧
      (region pa ≠ .hole → s.rstctl.getLsbD 31 = true → ∀ i ∈ all, exec i s = .next s) ∧
      (s.accepts pa n = true →
        (∀ i ∈ [Instr.rootPortRead pa n, .remoteAccess false pa n { val := val, bad := bad }, .applicationCoreAccess false pa n val],
          ∃ t r m, exec i s = .next t ∧ MemoryOnly s t ∧ s.outbox <+: r ∧ t.outbox = r ++ [m] ∧ m.pa = pa ∧ m.n = n ∧
            (region pa = .cap → s.sends = [] → s.latent = [] →
              let d := s.dramRead (pa / 128) (s.heldKey (pa / 128))
              m.poison = d.2 ∧ ∀ k < n, m.val / 256 ^ k % 256 = lineGet d.1 ((pa + k) % 128) 1)) ∧
        (∃ t, exec (.remoteAccess true pa n { val := val, bad := bad }) s = .next t ∧ MemoryOnly s t ∧ t.sends = s.sends ∧
          (region pa = .cap → s.latent = [] → s.mem.wf = true →
            (∀ k < n, t.mem.byte (pa + k) = BitVec.ofNat 8 (val.toNat / 256 ^ k)) ∧
              (bad = true → t.mem.poisoned (pa / 128) = true))) ∧
        ((∀ k < n, tableIndex (pa + k) = none) → ∀ i ∈ [Instr.rootPortWrite pa n val false, .applicationCoreAccess true pa n val],
          ∃ t w, exec i s = .next t ∧ MemoryOnly s t ∧ t.sends = s.sends ++ [w] ∧ w.origin = 4 ∧ w.line = pa / 128 ∧
            ∀ k < n, w.mask.getLsbD ((pa + k) % 128) = true ∧ lineGet w.data ((pa + k) % 128) 1 = val.toNat / 256 ^ k % 256) ∧
        ∃ t, exec (.rootPortWrite pa n val true) s = .next t ∧ MemoryOnly s t)) ∧
    (∀ off n val, off < 0x100000000 →
      exec (.applicationCoreAccess true (0x40000000000 + off) n val) s = exec (.registerWrite off { n := n, val := val }) s ∧
        ∃ t m, exec (.applicationCoreAccess false (0x40000000000 + off) n val) s = .next t ∧
          t.outbox = s.outbox ++ [m] ∧ m.pa = 0x40000000000 + off ∧ m.n = n ∧ { t with outbox := s.outbox } = s ∧
          (n = 8 → off = 0x300 → m.val = s.budg0.toNat) ∧
          ∀ p < 16, (n = 16 → off = 65536 * (p + 1) + 0x10 → m.val = (s.partReg p).pclu.toNat) ∧
            (n = 24 → off = 65536 * (p + 1) + 0x20 → m.val = (s.partReg p).plink.toNat)) ∧
    (∀ forecast hottest clusters, ∃ t, exec (.powerManagerInterval forecast hottest clusters) s = .next t ∧
      { t with hot := s.hot, limits := s.limits, pwrstat := s.pwrstat, cur := s.cur, others := s.others } = s ∧
      KeptBut [.c 28] s.cur t.cur ∧ t.cur.pc = s.cur.pc ∧ t.pwrstat.toNat / 2 ^ 32 ≤ 4000 ∧
      ∀ o < 128,
        let temp := hottest / 256 ^ (o / 32) % 256
        let was := (s.limits.getD o 8).toNat
        (105 ≤ temp ∨ (100 ≤ temp ∧ o / 32 ∈ s.hot) → (t.limits.getD o 8).toNat = 1) ∧
        (temp < 100 → 4000 < forecast → o ∈ clusters → (t.limits.getD o 8).toNat = max 1 (was - 1)) ∧
        (temp < 100 → forecast < 3800 → (t.limits.getD o 8).toNat = min 8 (was + 1)) ∧
        (temp < 100 → 3800 ≤ forecast → forecast ≤ 4000 → t.limits.getD o 8 = s.limits.getD o 8) ∧
        (s.cur.status = .running → s.cur.cluster = o → t.limits.getD o 8 ≠ s.limits.getD o 8 → (t.cur.cr 28).getLsbD 3 = true)) ∧
    (∃ t, exec .sensorSample s = .next t ∧ { t with sensors := s.sensors } = s ∧ 36 ≤ t.sensors.length) ∧
    ∀ nonce, ∃ t m, exec (.spdmRequest nonce) s = .next t ∧ { t with replies := s.replies } = s ∧
      t.replies = s.replies ++ [m] ∧ m.head? = some nonce

/-! ### The whole machine -/

namespace Sys2Proof.Claims

/-- A word that the instruction memory can hold: well formed, and no event of the module. -/
def IsWord (w : IWord) : Prop := w.wellFormed = true ∧ match w.body with
  | .full i => isEvent i = false
  | .pair a b => isEvent a = false ∧ isEvent b = false

/-- A body of 64 bits under a control field of 16 (R159). -/
def rawWord (c : BitVec 16) (b : BitVec 64) : BitVec 80 := (c ++ b : BitVec 80)

/-- DRAM, the tiles and the scratch keep their canonical form. -/
def MemoryInv (s : State) : Prop := s.mem.wf = true ∧ s.tmem.wf = true ∧ s.l2s.wf = true

end Sys2Proof.Claims

/-- R159-R165, R181-R187: decoding the encoding of a well-formed word gives the word, with every operand at every value. -/
def Obligations.DecodeEncode : Prop := ∀ w : IWord, IsWord w → decode (encode w) = .ok w

/-- R161, R162, R189, R190: what decodes is well formed, and its encoding is the word that was decoded, so that no bit is dropped. -/
def Obligations.DecodeWellFormed : Prop := ∀ (x : BitVec 80) (w : IWord), decode x = .ok w → IsWord w ∧ encode w = x

/-- Words that the specification writes out with their encodings: R159's and R229's listings, and one of most opcodes. -/
def Obligations.DecodeWords : Prop :=
  ∀ p ∈ [
    (rawWord 0x8000 0x0400080000000006, IWord.mk { cb := true } (.full (.beq 2 0 6))),
    (rawWord 0x0000 0x0480080100000001, .mk {} (.full (.loopInit 2 1))),
    (rawWord 0x1200 0x1005040200000000, .mk { pd := 1, sa := 1 } (.full (.ld 5 1 .w .plain .h 0))),
    (rawWord 0x3004 0x0006185000000000, .mk { pd := 3, sw := 1 } (.full (.add 6 6 5))),
    (rawWord 0x4000 0x04800000FFFFFFFD, .mk { pd := 4 } (.full (.loop (-3)))),
    (rawWord 0x0000 0x02041461C3800005, .mk {} (.full (.ffma 4 5 6 7 .dyn))),
    (rawWord 0x0008 0x0928A47A0381B800, .mk { sw := 2 }
      (.full (.vfma { rd := 40, rs1 := 41, rs2 := 7, rs3 := 40, rm := .dyn, ty := .f32 }))),
    (rawWord 0x0000 0x400828C00124A003, .mk {} (.pair (.pairScalarRR 0 4 5 6) (.pairAddi 9 10 3))),
    (rawWord 0x0000 0x1040246298000000, .mk {} (.full (.st 9 6 .w .rel .v 0))),
    (rawWord 0x0000 0x1103209000000004, .mk {} (.full (.qset 3 8 9 .w false .h))),
    (rawWord 0x1000 0x1580699100000000, .mk { pd := 1 } (.full (.invR 26 25))),
    (rawWord 0x0600 0x1618049100000021, .mk { sa := 3 } (.full (.hld 24 1 9 1 2))),
    (rawWord 0x0400 0x1709040000000000, .mk { sa := 2 } (.full (.kvapp 9 1))),
    (rawWord 0x8000 0x1801517000010000, .mk { cb := true } (.full (.mpm false false { rd := 1, rs1 := 20, rs2 := 23 }))),
    (rawWord 0x8000 0x1A00000B00000014, .mk { cb := true } (.full (.rallyRun 20))),
    (rawWord 0x0000 0x1C00200000000000, .mk {} (.full (.bcmd 8))),
    (rawWord 0x0000 0x3A00000200000002, .mk {} (.full (.barSync 2))),
    (rawWord 0x0000 0x3C00000300000007, .mk {} (.full (.brk 7)))],
    decode p.1 = .ok p.2

/-- Every step keeps the canonical form of DRAM, of the tiles and of the scratch: equal contents are equal data. -/
def Obligations.MemoryKept : Prop := ∀ s t : State, MemoryInv s → step s = .next t → MemoryInv t

/-- R54, R63, R78, R339, R349, R383: after reset no tile has an owner, every tile reads zero, the memories are in their canonical form,
nothing is cached, sent, queued or registered, and the registers for which the specification gives reset values hold them.
Nothing here rests on a value that the model chose (log 1). -/
def Obligations.ResetValues : Prop :=
  MemoryInv State.reset ∧
  (∀ a, State.reset.mem.byte a = 0 ∧ State.reset.tmem.byte a = 0 ∧ State.reset.l2s.byte a = 0) ∧
  (∀ l, State.reset.mem.poisoned l = false) ∧
  (∀ o n, (State.reset.tile o n).owner = 0 ∧ (State.reset.tile o n).clear = true) ∧
  State.reset.l1 = [] ∧ State.reset.cc = [] ∧ State.reset.gath = [] ∧ State.reset.l2 = [] ∧ State.reset.sends = [] ∧
  State.reset.nodes = [] ∧ State.reset.others = [] ∧ State.reset.cur.status = .idle ∧ State.reset.streams = [] ∧
  State.reset.cmds = [] ∧ State.reset.bank = [] ∧
  (∀ p < 16, (State.reset.partReg p).stgctl = 0x32 ∧ (State.reset.partReg p).stgstat = 0 ∧ (State.reset.partReg p).stgfast = 0 ∧
    (State.reset.partReg p).stgcap = 0 ∧ (State.reset.partReg p).psched = 0x000000F500400001) ∧
  State.reset.budg0 = 0x3200028001400020 ∧ State.reset.budg1 = 0x640

/-- R151, R159, R163, R354 and the model's agenda (log 2): what a step does. The oldest move of the agenda happens: an event, a turn of
a hart, which runs one word, an error of a stored line, a pre-emption within a word, or an error of a register (R363). With none left, the context in focus goes on;
where none runs on the hart in focus, the next running one comes into focus or the dispatcher places a node. Otherwise the word that
stands at the program counter and decodes is run: a full body by `exec` of the instruction, a pair by both slots on the values before
the word with one advance of the program counter. A word that held issue runs again; one that has not issued yet passes its conflict
check and its waits first. While an append of the context is stalled its word is not fetched again; a cause that waits for the
context's work comes before any word, and so does a switch-out that has been decided. A context whose evicted granules cannot be read
again ends.
Which of two slots of a pair decides is log 28. -/
def Obligations.StepRunsWord : Prop := ∀ s : State,
  (s.agenda = [] → step s = stepFocus s) ∧
  (∀ m r, s.agenda = m :: r →
    let f : State := { s with agenda := r }
    let later : State := { f with nd := s.nd + 1, time := s.time + (1 + Config.stepCk s.nd) }
    step s = match m with
      | .event i => if isEvent i then exec i later else .next later
      | .turn h => if f.runs h then stepFocus (f.focus h) else .next later
      | .flaw l hard => .next (later.flaw l hard)
      | .stop slot k => stepStop slot k f
      | .upset slot r k => .next (later.mapCtx slot fun c => if c.live then c.upset r k else c)) ∧
  (s.cur.status ≠ .running →
    stepFocus s = match s.nextRunning with
      | some h => .next (s.focus h)
      | none => exec .dispatchNode { s with nd := s.nd + 1, time := s.time + (1 + Config.stepCk s.nd) }) ∧
  (s.cur.status = .running →
    (s.appending = true → stepFocus s = .next (s.mapCur fun c => { c with fate := .held }).tick) ∧
    (∀ d, s.appending = false → s.cur.due = some d → stepFocus s = .next (s.serveDue d).tick) ∧
    (s.appending = false → s.cur.due = none → s.leavesNow = true → stepFocus s = .next (s.switchOut s.cur.slot).tick) ∧
    (s.midWord = false → s.regrain = none → stepFocus s = .next (s.imageLost s.cur.slot).tick)) ∧
  (∀ (g f : State) (raw : BitVec 80) (w : IWord), s.cur.status = .running → s.midWord = false → s.regrain = some g →
    g.fetchWord = .ok (raw, f) → decode raw = .ok w →
    let is := g.cur.issuing w.body
    g.postedDue = none → g.eventNow = none → (is.all (fun i => !supervisorOnly i) = true ∨ g.cur.super = true) →
    (g.cur.held = true → stepFocus s = runWord w f.tick) ∧
    (g.cur.held = false → g.cur.conflict w is = none → ∀ u, f.prep w is = .ok u → stepFocus s = runWord w u)) ∧
  (∀ w i, w.body = .full i → runWord w s = exec i s) ∧
  (∀ w a b, w.body = .pair a b → s.cur.rpt = true → runWord w s = exec (if s.cur.pslot = 1 then b else a) s) ∧
  (∀ w a b ta tb tc, w.body = .pair a b → s.cur.rpt = false →
    exec a (s.mapCur fun c => { c with views := some c.view }) = .next ta → ta.cur.fate = .retired →
    exec b (s.mapCur fun c => { c with views := some c.view, pslot := 1 }) = .next tb → tb.cur.fate = .retired →
    exec b (ta.mapCur fun c => { c with pslot := 1 }) = .next tc →
    runWord w s = .next (tc.mapCur fun c => { c with
      views := none, pslot := 0, last := c.pc, pc := c.pc + 1, held := false, fate := .retired }))
end

