-- ==== Sys2Proof/Laws/Bits.lean ====
section
/-! SUPPORT. What a bit of a replaced field is. -/

namespace Sys2Proof.Machine

theorem getLsbD_setBits {w : Nat} (x : BitVec w) (lo len val i : Nat) :
    (setBits x lo len val).getLsbD i =
      if lo ≤ i ∧ i < lo + len then decide (i < w) && val.testBit (i - lo) else x.getLsbD i := by
  unfold setBits
  simp only [BitVec.getLsbD_or, BitVec.getLsbD_and, BitVec.getLsbD_not, BitVec.getLsbD_shiftLeft, BitVec.getLsbD_setWidth,
    BitVec.getLsbD_allOnes, BitVec.getLsbD_ofNat]
  by_cases h1 : i < w <;> by_cases h2 : lo ≤ i <;> by_cases h3 : i - lo < len <;>
    by_cases h4 : i < lo + len <;> first | omega | skip
  all_goals (try have h5 : ¬ i < lo := by omega)
  all_goals (try have h6 : i < lo := by omega)
  all_goals (try have h7 : i - lo < w := by omega)
  all_goals simp [*]
  all_goals exact BitVec.getLsbD_of_ge _ _ (by omega)

theorem getLsbD_setBits_out {w : Nat} (x : BitVec w) (lo len val i : Nat) (h : ¬ (lo ≤ i ∧ i < lo + len)) :
    (setBits x lo len val).getLsbD i = x.getLsbD i := by rw [getLsbD_setBits, if_neg h]

end Sys2Proof.Machine
end

