-- ==== Sys2Proof/Laws/State.lean ====
section
/-! SUPPORT. The fields of a state or of a context after each update that the meanings share. -/

namespace Sys2Proof.Machine

@[simp] theorem mapCur_cur (s : State) (f : Ctx → Ctx) : (s.mapCur f).cur = f s.cur := rfl
@[simp] theorem mapCur_others (s : State) (f : Ctx → Ctx) : (s.mapCur f).others = s.others := rfl
@[simp] theorem mapCur_agenda (s : State) (f : Ctx → Ctx) : (s.mapCur f).agenda = s.agenda := rfl
@[simp] theorem mapCur_nd (s : State) (f : Ctx → Ctx) : (s.mapCur f).nd = s.nd := rfl
@[simp] theorem mapCur_time (s : State) (f : Ctx → Ctx) : (s.mapCur f).time = s.time := rfl
@[simp] theorem mapCur_period (s : State) (f : Ctx → Ctx) : (s.mapCur f).period = s.period := rfl
@[simp] theorem mapCur_mem (s : State) (f : Ctx → Ctx) : (s.mapCur f).mem = s.mem := rfl
@[simp] theorem mapCur_latent (s : State) (f : Ctx → Ctx) : (s.mapCur f).latent = s.latent := rfl
@[simp] theorem mapCur_ktags (s : State) (f : Ctx → Ctx) : (s.mapCur f).ktags = s.ktags := rfl
@[simp] theorem mapCur_l1 (s : State) (f : Ctx → Ctx) : (s.mapCur f).l1 = s.l1 := rfl
@[simp] theorem mapCur_cc (s : State) (f : Ctx → Ctx) : (s.mapCur f).cc = s.cc := rfl
@[simp] theorem mapCur_gath (s : State) (f : Ctx → Ctx) : (s.mapCur f).gath = s.gath := rfl
@[simp] theorem mapCur_l2 (s : State) (f : Ctx → Ctx) : (s.mapCur f).l2 = s.l2 := rfl
@[simp] theorem mapCur_icache (s : State) (f : Ctx → Ctx) : (s.mapCur f).icache = s.icache := rfl
@[simp] theorem mapCur_tlb (s : State) (f : Ctx → Ctx) : (s.mapCur f).tlb = s.tlb := rfl
@[simp] theorem mapCur_walks (s : State) (f : Ctx → Ctx) : (s.mapCur f).walks = s.walks := rfl
@[simp] theorem mapCur_sends (s : State) (f : Ctx → Ctx) : (s.mapCur f).sends = s.sends := rfl
@[simp] theorem mapCur_counts (s : State) (f : Ctx → Ctx) : (s.mapCur f).counts = s.counts := rfl
@[simp] theorem mapCur_clocks (s : State) (f : Ctx → Ctx) : (s.mapCur f).clocks = s.clocks := rfl
@[simp] theorem mapCur_stamps (s : State) (f : Ctx → Ctx) : (s.mapCur f).stamps = s.stamps := rfl
@[simp] theorem mapCur_marks (s : State) (f : Ctx → Ctx) : (s.mapCur f).marks = s.marks := rfl
@[simp] theorem mapCur_fot (s : State) (f : Ctx → Ctx) : (s.mapCur f).fot = s.fot := rfl
@[simp] theorem mapCur_keys (s : State) (f : Ctx → Ctx) : (s.mapCur f).keys = s.keys := rfl
@[simp] theorem mapCur_l2s (s : State) (f : Ctx → Ctx) : (s.mapCur f).l2s = s.l2s := rfl
@[simp] theorem mapCur_tmem (s : State) (f : Ctx → Ctx) : (s.mapCur f).tmem = s.tmem := rfl
@[simp] theorem mapCur_tiles (s : State) (f : Ctx → Ctx) : (s.mapCur f).tiles = s.tiles := rfl
@[simp] theorem mapCur_regions (s : State) (f : Ctx → Ctx) : (s.mapCur f).regions = s.regions := rfl
@[simp] theorem mapCur_cmds (s : State) (f : Ctx → Ctx) : (s.mapCur f).cmds = s.cmds := rfl
@[simp] theorem mapCur_bank (s : State) (f : Ctx → Ctx) : (s.mapCur f).bank = s.bank := rfl
@[simp] theorem mapCur_mail (s : State) (f : Ctx → Ctx) : (s.mapCur f).mail = s.mail := rfl
@[simp] theorem mapCur_boxes (s : State) (f : Ctx → Ctx) : (s.mapCur f).boxes = s.boxes := rfl
@[simp] theorem mapCur_wake (s : State) (f : Ctx → Ctx) : (s.mapCur f).wake = s.wake := rfl
@[simp] theorem mapCur_asks (s : State) (f : Ctx → Ctx) : (s.mapCur f).asks = s.asks := rfl
@[simp] theorem mapCur_serial (s : State) (f : Ctx → Ctx) : (s.mapCur f).serial = s.serial := rfl
@[simp] theorem mapCur_nodes (s : State) (f : Ctx → Ctx) : (s.mapCur f).nodes = s.nodes := rfl
@[simp] theorem mapCur_records (s : State) (f : Ctx → Ctx) : (s.mapCur f).records = s.records := rfl
@[simp] theorem mapCur_counters (s : State) (f : Ctx → Ctx) : (s.mapCur f).counters = s.counters := rfl
@[simp] theorem mapCur_bars (s : State) (f : Ctx → Ctx) : (s.mapCur f).bars = s.bars := rfl
@[simp] theorem mapCur_drains (s : State) (f : Ctx → Ctx) : (s.mapCur f).drains = s.drains := rfl
@[simp] theorem mapCur_gangs (s : State) (f : Ctx → Ctx) : (s.mapCur f).gangs = s.gangs := rfl
@[simp] theorem mapCur_streams (s : State) (f : Ctx → Ctx) : (s.mapCur f).streams = s.streams := rfl
@[simp] theorem mapCur_commits (s : State) (f : Ctx → Ctx) : (s.mapCur f).commits = s.commits := rfl
@[simp] theorem mapCur_parts (s : State) (f : Ctx → Ctx) : (s.mapCur f).parts = s.parts := rfl
@[simp] theorem mapCur_rstctl (s : State) (f : Ctx → Ctx) : (s.mapCur f).rstctl = s.rstctl := rfl
@[simp] theorem mapCur_pwrstat (s : State) (f : Ctx → Ctx) : (s.mapCur f).pwrstat = s.pwrstat := rfl
@[simp] theorem mapCur_budg0 (s : State) (f : Ctx → Ctx) : (s.mapCur f).budg0 = s.budg0 := rfl
@[simp] theorem mapCur_budg1 (s : State) (f : Ctx → Ctx) : (s.mapCur f).budg1 = s.budg1 := rfl
@[simp] theorem mapCur_credits (s : State) (f : Ctx → Ctx) : (s.mapCur f).credits = s.credits := rfl
@[simp] theorem mapCur_limits (s : State) (f : Ctx → Ctx) : (s.mapCur f).limits = s.limits := rfl
@[simp] theorem mapCur_hot (s : State) (f : Ctx → Ctx) : (s.mapCur f).hot = s.hot := rfl
@[simp] theorem mapCur_log (s : State) (f : Ctx → Ctx) : (s.mapCur f).log = s.log := rfl
@[simp] theorem mapCur_msix (s : State) (f : Ctx → Ctx) : (s.mapCur f).msix = s.msix := rfl
@[simp] theorem mapCur_links (s : State) (f : Ctx → Ctx) : (s.mapCur f).links = s.links := rfl
@[simp] theorem mapCur_outbox (s : State) (f : Ctx → Ctx) : (s.mapCur f).outbox = s.outbox := rfl
@[simp] theorem mapCur_sensors (s : State) (f : Ctx → Ctx) : (s.mapCur f).sensors = s.sensors := rfl
@[simp] theorem mapCur_replies (s : State) (f : Ctx → Ctx) : (s.mapCur f).replies = s.replies := rfl
@[simp] theorem mapCur_migs (s : State) (f : Ctx → Ctx) : (s.mapCur f).migs = s.migs := rfl
@[simp] theorem mapCur_owed (s : State) (f : Ctx → Ctx) : (s.mapCur f).owed = s.owed := rfl
@[simp] theorem mapCur_marked (s : State) (f : Ctx → Ctx) : (s.mapCur f).marked = s.marked := rfl
@[simp] theorem mapCur_promoted (s : State) (f : Ctx → Ctx) : (s.mapCur f).promoted = s.promoted := rfl
@[simp] theorem mapCur_fw (s : State) (f : Ctx → Ctx) : (s.mapCur f).fw = s.fw := rfl

/-! ### Time -/

@[simp] theorem tick_nd (s : State) : s.tick.nd = s.nd + 1 := rfl
@[simp] theorem tick_cur (s : State) : s.tick.cur = s.cur := rfl
@[simp] theorem tick_others (s : State) : s.tick.others = s.others := rfl
@[simp] theorem tick_agenda (s : State) : s.tick.agenda = s.agenda := rfl
@[simp] theorem tick_period (s : State) : s.tick.period = s.period := rfl
@[simp] theorem tick_mem (s : State) : s.tick.mem = s.mem := rfl
@[simp] theorem tick_latent (s : State) : s.tick.latent = s.latent := rfl
@[simp] theorem tick_ktags (s : State) : s.tick.ktags = s.ktags := rfl
@[simp] theorem tick_l1 (s : State) : s.tick.l1 = s.l1 := rfl
@[simp] theorem tick_cc (s : State) : s.tick.cc = s.cc := rfl
@[simp] theorem tick_gath (s : State) : s.tick.gath = s.gath := rfl
@[simp] theorem tick_l2 (s : State) : s.tick.l2 = s.l2 := rfl
@[simp] theorem tick_icache (s : State) : s.tick.icache = s.icache := rfl
@[simp] theorem tick_tlb (s : State) : s.tick.tlb = s.tlb := rfl
@[simp] theorem tick_walks (s : State) : s.tick.walks = s.walks := rfl
@[simp] theorem tick_sends (s : State) : s.tick.sends = s.sends := rfl
@[simp] theorem tick_counts (s : State) : s.tick.counts = s.counts := rfl
@[simp] theorem tick_clocks (s : State) : s.tick.clocks = s.clocks := rfl
@[simp] theorem tick_stamps (s : State) : s.tick.stamps = s.stamps := rfl
@[simp] theorem tick_marks (s : State) : s.tick.marks = s.marks := rfl
@[simp] theorem tick_fot (s : State) : s.tick.fot = s.fot := rfl
@[simp] theorem tick_keys (s : State) : s.tick.keys = s.keys := rfl
@[simp] theorem tick_l2s (s : State) : s.tick.l2s = s.l2s := rfl
@[simp] theorem tick_tmem (s : State) : s.tick.tmem = s.tmem := rfl
@[simp] theorem tick_tiles (s : State) : s.tick.tiles = s.tiles := rfl
@[simp] theorem tick_regions (s : State) : s.tick.regions = s.regions := rfl
@[simp] theorem tick_cmds (s : State) : s.tick.cmds = s.cmds := rfl
@[simp] theorem tick_bank (s : State) : s.tick.bank = s.bank := rfl
@[simp] theorem tick_mail (s : State) : s.tick.mail = s.mail := rfl
@[simp] theorem tick_boxes (s : State) : s.tick.boxes = s.boxes := rfl
@[simp] theorem tick_wake (s : State) : s.tick.wake = s.wake := rfl
@[simp] theorem tick_asks (s : State) : s.tick.asks = s.asks := rfl
@[simp] theorem tick_serial (s : State) : s.tick.serial = s.serial := rfl
@[simp] theorem tick_nodes (s : State) : s.tick.nodes = s.nodes := rfl
@[simp] theorem tick_records (s : State) : s.tick.records = s.records := rfl
@[simp] theorem tick_counters (s : State) : s.tick.counters = s.counters := rfl
@[simp] theorem tick_bars (s : State) : s.tick.bars = s.bars := rfl
@[simp] theorem tick_drains (s : State) : s.tick.drains = s.drains := rfl
@[simp] theorem tick_gangs (s : State) : s.tick.gangs = s.gangs := rfl
@[simp] theorem tick_streams (s : State) : s.tick.streams = s.streams := rfl
@[simp] theorem tick_commits (s : State) : s.tick.commits = s.commits := rfl
@[simp] theorem tick_parts (s : State) : s.tick.parts = s.parts := rfl
@[simp] theorem tick_rstctl (s : State) : s.tick.rstctl = s.rstctl := rfl
@[simp] theorem tick_pwrstat (s : State) : s.tick.pwrstat = s.pwrstat := rfl
@[simp] theorem tick_budg0 (s : State) : s.tick.budg0 = s.budg0 := rfl
@[simp] theorem tick_budg1 (s : State) : s.tick.budg1 = s.budg1 := rfl
@[simp] theorem tick_credits (s : State) : s.tick.credits = s.credits := rfl
@[simp] theorem tick_limits (s : State) : s.tick.limits = s.limits := rfl
@[simp] theorem tick_hot (s : State) : s.tick.hot = s.hot := rfl
@[simp] theorem tick_log (s : State) : s.tick.log = s.log := rfl
@[simp] theorem tick_msix (s : State) : s.tick.msix = s.msix := rfl
@[simp] theorem tick_links (s : State) : s.tick.links = s.links := rfl
@[simp] theorem tick_outbox (s : State) : s.tick.outbox = s.outbox := rfl
@[simp] theorem tick_sensors (s : State) : s.tick.sensors = s.sensors := rfl
@[simp] theorem tick_replies (s : State) : s.tick.replies = s.replies := rfl
@[simp] theorem tick_migs (s : State) : s.tick.migs = s.migs := rfl
@[simp] theorem tick_owed (s : State) : s.tick.owed = s.owed := rfl
@[simp] theorem tick_marked (s : State) : s.tick.marked = s.marked := rfl
@[simp] theorem tick_promoted (s : State) : s.tick.promoted = s.promoted := rfl
@[simp] theorem tick_fw (s : State) : s.tick.fw = s.fw := rfl

/-! ### Control registers -/

@[simp] theorem setCr_status (c : Ctx) (n : Nat) (x : Word) : (c.setCr n x).status = c.status := rfl
@[simp] theorem setCr_slot (c : Ctx) (n : Nat) (x : Word) : (c.setCr n x).slot = c.slot := rfl
@[simp] theorem setCr_part (c : Ctx) (n : Nat) (x : Word) : (c.setCr n x).part = c.part := rfl
@[simp] theorem setCr_cluster (c : Ctx) (n : Nat) (x : Word) : (c.setCr n x).cluster = c.cluster := rfl
@[simp] theorem setCr_hart (c : Ctx) (n : Nat) (x : Word) : (c.setCr n x).hart = c.hart := rfl
@[simp] theorem setCr_super (c : Ctx) (n : Nat) (x : Word) : (c.setCr n x).super = c.super := rfl
@[simp] theorem setCr_code (c : Ctx) (n : Nat) (x : Word) : (c.setCr n x).code = c.code := rfl
@[simp] theorem setCr_pc (c : Ctx) (n : Nat) (x : Word) : (c.setCr n x).pc = c.pc := rfl
@[simp] theorem setCr_pslot (c : Ctx) (n : Nat) (x : Word) : (c.setCr n x).pslot = c.pslot := rfl
@[simp] theorem setCr_last (c : Ctx) (n : Nat) (x : Word) : (c.setCr n x).last = c.last := rfl
@[simp] theorem setCr_s (c : Ctx) (n : Nat) (x : Word) : (c.setCr n x).s = c.s := rfl
@[simp] theorem setCr_v (c : Ctx) (n : Nat) (x : Word) : (c.setCr n x).v = c.v := rfl
@[simp] theorem setCr_m (c : Ctx) (n : Nat) (x : Word) : (c.setCr n x).m = c.m := rfl
@[simp] theorem setCr_q (c : Ctx) (n : Nat) (x : Word) : (c.setCr n x).q = c.q := rfl
@[simp] theorem setCr_t (c : Ctx) (n : Nat) (x : Word) : (c.setCr n x).t = c.t := rfl
@[simp] theorem setCr_ps (c : Ctx) (n : Nat) (x : Word) : (c.setCr n x).ps = c.ps := rfl
@[simp] theorem setCr_pv (c : Ctx) (n : Nat) (x : Word) : (c.setCr n x).pv = c.pv := rfl
@[simp] theorem setCr_pm (c : Ctx) (n : Nat) (x : Word) : (c.setCr n x).pm = c.pm := rfl
@[simp] theorem setCr_pend (c : Ctx) (n : Nat) (x : Word) : (c.setCr n x).pend = c.pend := rfl
@[simp] theorem setCr_recent (c : Ctx) (n : Nat) (x : Word) : (c.setCr n x).recent = c.recent := rfl
@[simp] theorem setCr_lastUse (c : Ctx) (n : Nat) (x : Word) : (c.setCr n x).lastUse = c.lastUse := rfl
@[simp] theorem setCr_lastNew (c : Ctx) (n : Nat) (x : Word) : (c.setCr n x).lastNew = c.lastNew := rfl
@[simp] theorem setCr_convoy (c : Ctx) (n : Nat) (x : Word) : (c.setCr n x).convoy = c.convoy := rfl
@[simp] theorem setCr_ctl (c : Ctx) (n : Nat) (x : Word) : (c.setCr n x).ctl = c.ctl := rfl
@[simp] theorem setCr_held (c : Ctx) (n : Nat) (x : Word) : (c.setCr n x).held = c.held := rfl
@[simp] theorem setCr_due (c : Ctx) (n : Nat) (x : Word) : (c.setCr n x).due = c.due := rfl
@[simp] theorem setCr_leaving (c : Ctx) (n : Nat) (x : Word) : (c.setCr n x).leaving = c.leaving := rfl
@[simp] theorem setCr_fate (c : Ctx) (n : Nat) (x : Word) : (c.setCr n x).fate = c.fate := rfl
@[simp] theorem setCr_rpt (c : Ctx) (n : Nat) (x : Word) : (c.setCr n x).rpt = c.rpt := rfl
@[simp] theorem setCr_rword (c : Ctx) (n : Nat) (x : Word) : (c.setCr n x).rword = c.rword := rfl
@[simp] theorem setCr_rpop (c : Ctx) (n : Nat) (x : Word) : (c.setCr n x).rpop = c.rpop := rfl
@[simp] theorem setCr_redo (c : Ctx) (n : Nat) (x : Word) : (c.setCr n x).redo = c.redo := rfl
@[simp] theorem setCr_aside (c : Ctx) (n : Nat) (x : Word) : (c.setCr n x).aside = c.aside := rfl
@[simp] theorem setCr_cleans (c : Ctx) (n : Nat) (x : Word) : (c.setCr n x).cleans = c.cleans := rfl
@[simp] theorem setCr_cut (c : Ctx) (n : Nat) (x : Word) : (c.setCr n x).cut = c.cut := rfl
@[simp] theorem setCr_posted (c : Ctx) (n : Nat) (x : Word) : (c.setCr n x).posted = c.posted := rfl
@[simp] theorem setCr_news (c : Ctx) (n : Nat) (x : Word) : (c.setCr n x).news = c.news := rfl
@[simp] theorem setCr_mq (c : Ctx) (n : Nat) (x : Word) : (c.setCr n x).mq = c.mq := rfl
@[simp] theorem setCr_fetches (c : Ctx) (n : Nat) (x : Word) : (c.setCr n x).fetches = c.fetches := rfl
@[simp] theorem setCr_lreq (c : Ctx) (n : Nat) (x : Word) : (c.setCr n x).lreq = c.lreq := rfl
@[simp] theorem setCr_lmin (c : Ctx) (n : Nat) (x : Word) : (c.setCr n x).lmin = c.lmin := rfl
@[simp] theorem setCr_icap (c : Ctx) (n : Nat) (x : Word) : (c.setCr n x).icap = c.icap := rfl
@[simp] theorem setCr_wgt (c : Ctx) (n : Nat) (x : Word) : (c.setCr n x).wgt = c.wgt := rfl
@[simp] theorem setCr_target (c : Ctx) (n : Nat) (x : Word) : (c.setCr n x).target = c.target := rfl
@[simp] theorem setCr_order (c : Ctx) (n : Nat) (x : Word) : (c.setCr n x).order = c.order := rfl
@[simp] theorem setCr_timer (c : Ctx) (n : Nat) (x : Word) : (c.setCr n x).timer = c.timer := rfl
@[simp] theorem setCr_monitor (c : Ctx) (n : Nat) (x : Word) : (c.setCr n x).monitor = c.monitor := rfl
@[simp] theorem setCr_waitAt (c : Ctx) (n : Nat) (x : Word) : (c.setCr n x).waitAt = c.waitAt := rfl
@[simp] theorem setCr_heard (c : Ctx) (n : Nat) (x : Word) : (c.setCr n x).heard = c.heard := rfl
@[simp] theorem setCr_sync (c : Ctx) (n : Nat) (x : Word) : (c.setCr n x).sync = c.sync := rfl
@[simp] theorem setCr_vtime (c : Ctx) (n : Nat) (x : Word) : (c.setCr n x).vtime = c.vtime := rfl
@[simp] theorem setCr_views (c : Ctx) (n : Nat) (x : Word) : (c.setCr n x).views = c.views := rfl
@[simp] theorem setCr_image (c : Ctx) (n : Nat) (x : Word) : (c.setCr n x).image = c.image := rfl
@[simp] theorem setCr_evicted (c : Ctx) (n : Nat) (x : Word) : (c.setCr n x).evicted =
    c.evicted.filter fun e => e.1 != 4 + n / 8 := rfl

/-! ### Granules that are in the register file again -/

@[simp] theorem rewrote_status (c : Ctx) (gs : Nat → Bool) : (c.rewrote gs).status = c.status := rfl
@[simp] theorem rewrote_slot (c : Ctx) (gs : Nat → Bool) : (c.rewrote gs).slot = c.slot := rfl
@[simp] theorem rewrote_part (c : Ctx) (gs : Nat → Bool) : (c.rewrote gs).part = c.part := rfl
@[simp] theorem rewrote_cluster (c : Ctx) (gs : Nat → Bool) : (c.rewrote gs).cluster = c.cluster := rfl
@[simp] theorem rewrote_hart (c : Ctx) (gs : Nat → Bool) : (c.rewrote gs).hart = c.hart := rfl
@[simp] theorem rewrote_super (c : Ctx) (gs : Nat → Bool) : (c.rewrote gs).super = c.super := rfl
@[simp] theorem rewrote_code (c : Ctx) (gs : Nat → Bool) : (c.rewrote gs).code = c.code := rfl
@[simp] theorem rewrote_pc (c : Ctx) (gs : Nat → Bool) : (c.rewrote gs).pc = c.pc := rfl
@[simp] theorem rewrote_pslot (c : Ctx) (gs : Nat → Bool) : (c.rewrote gs).pslot = c.pslot := rfl
@[simp] theorem rewrote_last (c : Ctx) (gs : Nat → Bool) : (c.rewrote gs).last = c.last := rfl
@[simp] theorem rewrote_s (c : Ctx) (gs : Nat → Bool) : (c.rewrote gs).s = c.s := rfl
@[simp] theorem rewrote_v (c : Ctx) (gs : Nat → Bool) : (c.rewrote gs).v = c.v := rfl
@[simp] theorem rewrote_m (c : Ctx) (gs : Nat → Bool) : (c.rewrote gs).m = c.m := rfl
@[simp] theorem rewrote_q (c : Ctx) (gs : Nat → Bool) : (c.rewrote gs).q = c.q := rfl
@[simp] theorem rewrote_t (c : Ctx) (gs : Nat → Bool) : (c.rewrote gs).t = c.t := rfl
@[simp] theorem rewrote_ps (c : Ctx) (gs : Nat → Bool) : (c.rewrote gs).ps = c.ps := rfl
@[simp] theorem rewrote_pv (c : Ctx) (gs : Nat → Bool) : (c.rewrote gs).pv = c.pv := rfl
@[simp] theorem rewrote_pm (c : Ctx) (gs : Nat → Bool) : (c.rewrote gs).pm = c.pm := rfl
@[simp] theorem rewrote_pend (c : Ctx) (gs : Nat → Bool) : (c.rewrote gs).pend = c.pend := rfl
@[simp] theorem rewrote_recent (c : Ctx) (gs : Nat → Bool) : (c.rewrote gs).recent = c.recent := rfl
@[simp] theorem rewrote_lastUse (c : Ctx) (gs : Nat → Bool) : (c.rewrote gs).lastUse = c.lastUse := rfl
@[simp] theorem rewrote_lastNew (c : Ctx) (gs : Nat → Bool) : (c.rewrote gs).lastNew = c.lastNew := rfl
@[simp] theorem rewrote_convoy (c : Ctx) (gs : Nat → Bool) : (c.rewrote gs).convoy = c.convoy := rfl
@[simp] theorem rewrote_ctl (c : Ctx) (gs : Nat → Bool) : (c.rewrote gs).ctl = c.ctl := rfl
@[simp] theorem rewrote_held (c : Ctx) (gs : Nat → Bool) : (c.rewrote gs).held = c.held := rfl
@[simp] theorem rewrote_due (c : Ctx) (gs : Nat → Bool) : (c.rewrote gs).due = c.due := rfl
@[simp] theorem rewrote_leaving (c : Ctx) (gs : Nat → Bool) : (c.rewrote gs).leaving = c.leaving := rfl
@[simp] theorem rewrote_fate (c : Ctx) (gs : Nat → Bool) : (c.rewrote gs).fate = c.fate := rfl
@[simp] theorem rewrote_rpt (c : Ctx) (gs : Nat → Bool) : (c.rewrote gs).rpt = c.rpt := rfl
@[simp] theorem rewrote_rword (c : Ctx) (gs : Nat → Bool) : (c.rewrote gs).rword = c.rword := rfl
@[simp] theorem rewrote_rpop (c : Ctx) (gs : Nat → Bool) : (c.rewrote gs).rpop = c.rpop := rfl
@[simp] theorem rewrote_redo (c : Ctx) (gs : Nat → Bool) : (c.rewrote gs).redo = c.redo := rfl
@[simp] theorem rewrote_aside (c : Ctx) (gs : Nat → Bool) : (c.rewrote gs).aside = c.aside := rfl
@[simp] theorem rewrote_cleans (c : Ctx) (gs : Nat → Bool) : (c.rewrote gs).cleans = c.cleans := rfl
@[simp] theorem rewrote_cut (c : Ctx) (gs : Nat → Bool) : (c.rewrote gs).cut = c.cut := rfl
@[simp] theorem rewrote_posted (c : Ctx) (gs : Nat → Bool) : (c.rewrote gs).posted = c.posted := rfl
@[simp] theorem rewrote_news (c : Ctx) (gs : Nat → Bool) : (c.rewrote gs).news = c.news := rfl
@[simp] theorem rewrote_mq (c : Ctx) (gs : Nat → Bool) : (c.rewrote gs).mq = c.mq := rfl
@[simp] theorem rewrote_fetches (c : Ctx) (gs : Nat → Bool) : (c.rewrote gs).fetches = c.fetches := rfl
@[simp] theorem rewrote_lreq (c : Ctx) (gs : Nat → Bool) : (c.rewrote gs).lreq = c.lreq := rfl
@[simp] theorem rewrote_lmin (c : Ctx) (gs : Nat → Bool) : (c.rewrote gs).lmin = c.lmin := rfl
@[simp] theorem rewrote_icap (c : Ctx) (gs : Nat → Bool) : (c.rewrote gs).icap = c.icap := rfl
@[simp] theorem rewrote_wgt (c : Ctx) (gs : Nat → Bool) : (c.rewrote gs).wgt = c.wgt := rfl
@[simp] theorem rewrote_target (c : Ctx) (gs : Nat → Bool) : (c.rewrote gs).target = c.target := rfl
@[simp] theorem rewrote_order (c : Ctx) (gs : Nat → Bool) : (c.rewrote gs).order = c.order := rfl
@[simp] theorem rewrote_timer (c : Ctx) (gs : Nat → Bool) : (c.rewrote gs).timer = c.timer := rfl
@[simp] theorem rewrote_monitor (c : Ctx) (gs : Nat → Bool) : (c.rewrote gs).monitor = c.monitor := rfl
@[simp] theorem rewrote_waitAt (c : Ctx) (gs : Nat → Bool) : (c.rewrote gs).waitAt = c.waitAt := rfl
@[simp] theorem rewrote_heard (c : Ctx) (gs : Nat → Bool) : (c.rewrote gs).heard = c.heard := rfl
@[simp] theorem rewrote_sync (c : Ctx) (gs : Nat → Bool) : (c.rewrote gs).sync = c.sync := rfl
@[simp] theorem rewrote_vtime (c : Ctx) (gs : Nat → Bool) : (c.rewrote gs).vtime = c.vtime := rfl
@[simp] theorem rewrote_views (c : Ctx) (gs : Nat → Bool) : (c.rewrote gs).views = c.views := rfl
@[simp] theorem rewrote_image (c : Ctx) (gs : Nat → Bool) : (c.rewrote gs).image = c.image := rfl
@[simp] theorem rewrote_creg (c : Ctx) (gs : Nat → Bool) : (c.rewrote gs).creg = c.creg := rfl
@[simp] theorem rewrote_evicted (c : Ctx) (gs : Nat → Bool) : (c.rewrote gs).evicted = c.evicted.filter fun e => !gs e.1 := rfl

/-! ### The light route -/

@[simp] theorem takeLight_status (c : Ctx) (code : Nat) (imm next : BitVec 32) : (c.takeLight code imm next).status = c.status := rfl
@[simp] theorem takeLight_slot (c : Ctx) (code : Nat) (imm next : BitVec 32) : (c.takeLight code imm next).slot = c.slot := rfl
@[simp] theorem takeLight_part (c : Ctx) (code : Nat) (imm next : BitVec 32) : (c.takeLight code imm next).part = c.part := rfl
@[simp] theorem takeLight_cluster (c : Ctx) (code : Nat) (imm next : BitVec 32) : (c.takeLight code imm next).cluster = c.cluster := rfl
@[simp] theorem takeLight_hart (c : Ctx) (code : Nat) (imm next : BitVec 32) : (c.takeLight code imm next).hart = c.hart := rfl
@[simp] theorem takeLight_super (c : Ctx) (code : Nat) (imm next : BitVec 32) : (c.takeLight code imm next).super = true := rfl
@[simp] theorem takeLight_code (c : Ctx) (code : Nat) (imm next : BitVec 32) : (c.takeLight code imm next).code = c.code := rfl
@[simp] theorem takeLight_pslot (c : Ctx) (code : Nat) (imm next : BitVec 32) : (c.takeLight code imm next).pslot = 0 := rfl
@[simp] theorem takeLight_last (c : Ctx) (code : Nat) (imm next : BitVec 32) : (c.takeLight code imm next).last = c.last := rfl
@[simp] theorem takeLight_s (c : Ctx) (code : Nat) (imm next : BitVec 32) : (c.takeLight code imm next).s = c.s := rfl
@[simp] theorem takeLight_v (c : Ctx) (code : Nat) (imm next : BitVec 32) : (c.takeLight code imm next).v = c.v := rfl
@[simp] theorem takeLight_m (c : Ctx) (code : Nat) (imm next : BitVec 32) : (c.takeLight code imm next).m = c.m := rfl
@[simp] theorem takeLight_q (c : Ctx) (code : Nat) (imm next : BitVec 32) : (c.takeLight code imm next).q = c.q := rfl
@[simp] theorem takeLight_t (c : Ctx) (code : Nat) (imm next : BitVec 32) : (c.takeLight code imm next).t = c.t := rfl
@[simp] theorem takeLight_ps (c : Ctx) (code : Nat) (imm next : BitVec 32) : (c.takeLight code imm next).ps = c.ps := rfl
@[simp] theorem takeLight_pv (c : Ctx) (code : Nat) (imm next : BitVec 32) : (c.takeLight code imm next).pv = c.pv := rfl
@[simp] theorem takeLight_pm (c : Ctx) (code : Nat) (imm next : BitVec 32) : (c.takeLight code imm next).pm = c.pm := rfl
@[simp] theorem takeLight_pend (c : Ctx) (code : Nat) (imm next : BitVec 32) : (c.takeLight code imm next).pend = c.pend := rfl
@[simp] theorem takeLight_recent (c : Ctx) (code : Nat) (imm next : BitVec 32) : (c.takeLight code imm next).recent = c.recent := rfl
@[simp] theorem takeLight_lastUse (c : Ctx) (code : Nat) (imm next : BitVec 32) : (c.takeLight code imm next).lastUse = c.lastUse := rfl
@[simp] theorem takeLight_lastNew (c : Ctx) (code : Nat) (imm next : BitVec 32) : (c.takeLight code imm next).lastNew = c.lastNew := rfl
@[simp] theorem takeLight_convoy (c : Ctx) (code : Nat) (imm next : BitVec 32) : (c.takeLight code imm next).convoy = { drain := true } := rfl
@[simp] theorem takeLight_ctl (c : Ctx) (code : Nat) (imm next : BitVec 32) : (c.takeLight code imm next).ctl = c.ctl := rfl
@[simp] theorem takeLight_held (c : Ctx) (code : Nat) (imm next : BitVec 32) : (c.takeLight code imm next).held = false := rfl
@[simp] theorem takeLight_due (c : Ctx) (code : Nat) (imm next : BitVec 32) : (c.takeLight code imm next).due = c.due := rfl
@[simp] theorem takeLight_leaving (c : Ctx) (code : Nat) (imm next : BitVec 32) : (c.takeLight code imm next).leaving = c.leaving := rfl
@[simp] theorem takeLight_fate (c : Ctx) (code : Nat) (imm next : BitVec 32) : (c.takeLight code imm next).fate = .ended := rfl
@[simp] theorem takeLight_rpt (c : Ctx) (code : Nat) (imm next : BitVec 32) : (c.takeLight code imm next).rpt = false := rfl
@[simp] theorem takeLight_rword (c : Ctx) (code : Nat) (imm next : BitVec 32) : (c.takeLight code imm next).rword = 0 := rfl
@[simp] theorem takeLight_rpop (c : Ctx) (code : Nat) (imm next : BitVec 32) : (c.takeLight code imm next).rpop = [] := rfl
@[simp] theorem takeLight_redo (c : Ctx) (code : Nat) (imm next : BitVec 32) : (c.takeLight code imm next).redo = none := rfl
@[simp] theorem takeLight_aside (c : Ctx) (code : Nat) (imm next : BitVec 32) : (c.takeLight code imm next).aside = c.rerun := rfl
@[simp] theorem takeLight_cleans (c : Ctx) (code : Nat) (imm next : BitVec 32) : (c.takeLight code imm next).cleans = c.cleans := rfl
@[simp] theorem takeLight_cut (c : Ctx) (code : Nat) (imm next : BitVec 32) : (c.takeLight code imm next).cut = c.cut := rfl
@[simp] theorem takeLight_posted (c : Ctx) (code : Nat) (imm next : BitVec 32) : (c.takeLight code imm next).posted = c.posted := rfl
@[simp] theorem takeLight_news (c : Ctx) (code : Nat) (imm next : BitVec 32) : (c.takeLight code imm next).news = c.news := rfl
@[simp] theorem takeLight_mq (c : Ctx) (code : Nat) (imm next : BitVec 32) : (c.takeLight code imm next).mq = c.mq := rfl
@[simp] theorem takeLight_fetches (c : Ctx) (code : Nat) (imm next : BitVec 32) : (c.takeLight code imm next).fetches = c.fetches := rfl
@[simp] theorem takeLight_lreq (c : Ctx) (code : Nat) (imm next : BitVec 32) : (c.takeLight code imm next).lreq = c.lreq := rfl
@[simp] theorem takeLight_lmin (c : Ctx) (code : Nat) (imm next : BitVec 32) : (c.takeLight code imm next).lmin = c.lmin := rfl
@[simp] theorem takeLight_icap (c : Ctx) (code : Nat) (imm next : BitVec 32) : (c.takeLight code imm next).icap = c.icap := rfl
@[simp] theorem takeLight_wgt (c : Ctx) (code : Nat) (imm next : BitVec 32) : (c.takeLight code imm next).wgt = c.wgt := rfl
@[simp] theorem takeLight_target (c : Ctx) (code : Nat) (imm next : BitVec 32) : (c.takeLight code imm next).target = c.target := rfl
@[simp] theorem takeLight_order (c : Ctx) (code : Nat) (imm next : BitVec 32) : (c.takeLight code imm next).order = c.order := rfl
@[simp] theorem takeLight_timer (c : Ctx) (code : Nat) (imm next : BitVec 32) : (c.takeLight code imm next).timer = c.timer := rfl
@[simp] theorem takeLight_monitor (c : Ctx) (code : Nat) (imm next : BitVec 32) : (c.takeLight code imm next).monitor = c.monitor := rfl
@[simp] theorem takeLight_waitAt (c : Ctx) (code : Nat) (imm next : BitVec 32) : (c.takeLight code imm next).waitAt = c.waitAt := rfl
@[simp] theorem takeLight_heard (c : Ctx) (code : Nat) (imm next : BitVec 32) : (c.takeLight code imm next).heard = c.heard := rfl
@[simp] theorem takeLight_sync (c : Ctx) (code : Nat) (imm next : BitVec 32) : (c.takeLight code imm next).sync = c.sync := rfl
@[simp] theorem takeLight_vtime (c : Ctx) (code : Nat) (imm next : BitVec 32) : (c.takeLight code imm next).vtime = c.vtime := rfl
@[simp] theorem takeLight_views (c : Ctx) (code : Nat) (imm next : BitVec 32) : (c.takeLight code imm next).views = none := rfl
@[simp] theorem takeLight_image (c : Ctx) (code : Nat) (imm next : BitVec 32) : (c.takeLight code imm next).image = c.image := rfl
@[simp] theorem takeLight_evicted (c : Ctx) (code : Nat) (imm next : BitVec 32) : (c.takeLight code imm next).evicted =
    c.evicted.filter fun e => e.1 != 7 := by
  simp [Ctx.takeLight, List.filter_filter]

@[simp] theorem runAgain_none (c : Ctx) : c.runAgain none = c := rfl

/-- A producer that was set aside changes nothing else than what names it. -/
theorem runAgain_eq (c : Ctx) (r : Option Rerun) :
    ({ c.runAgain r with
        rpt := c.rpt, pslot := c.pslot, rword := c.rword, rpop := c.rpop, redo := c.redo } : Ctx) = c := by
  unfold Ctx.runAgain
  split
  · rfl
  · split <;> rfl

@[simp] theorem runAgain_status (c : Ctx) (r : Option Rerun) : (c.runAgain r).status = c.status :=
  (congrArg Ctx.status (runAgain_eq c r) :)
@[simp] theorem runAgain_slot (c : Ctx) (r : Option Rerun) : (c.runAgain r).slot = c.slot :=
  (congrArg Ctx.slot (runAgain_eq c r) :)
@[simp] theorem runAgain_part (c : Ctx) (r : Option Rerun) : (c.runAgain r).part = c.part :=
  (congrArg Ctx.part (runAgain_eq c r) :)
@[simp] theorem runAgain_cluster (c : Ctx) (r : Option Rerun) : (c.runAgain r).cluster = c.cluster :=
  (congrArg Ctx.cluster (runAgain_eq c r) :)
@[simp] theorem runAgain_hart (c : Ctx) (r : Option Rerun) : (c.runAgain r).hart = c.hart :=
  (congrArg Ctx.hart (runAgain_eq c r) :)
@[simp] theorem runAgain_super (c : Ctx) (r : Option Rerun) : (c.runAgain r).super = c.super :=
  (congrArg Ctx.super (runAgain_eq c r) :)
@[simp] theorem runAgain_code (c : Ctx) (r : Option Rerun) : (c.runAgain r).code = c.code :=
  (congrArg Ctx.code (runAgain_eq c r) :)
@[simp] theorem runAgain_pc (c : Ctx) (r : Option Rerun) : (c.runAgain r).pc = c.pc :=
  (congrArg Ctx.pc (runAgain_eq c r) :)
@[simp] theorem runAgain_last (c : Ctx) (r : Option Rerun) : (c.runAgain r).last = c.last :=
  (congrArg Ctx.last (runAgain_eq c r) :)
@[simp] theorem runAgain_s (c : Ctx) (r : Option Rerun) : (c.runAgain r).s = c.s :=
  (congrArg Ctx.s (runAgain_eq c r) :)
@[simp] theorem runAgain_v (c : Ctx) (r : Option Rerun) : (c.runAgain r).v = c.v :=
  (congrArg Ctx.v (runAgain_eq c r) :)
@[simp] theorem runAgain_m (c : Ctx) (r : Option Rerun) : (c.runAgain r).m = c.m :=
  (congrArg Ctx.m (runAgain_eq c r) :)
@[simp] theorem runAgain_q (c : Ctx) (r : Option Rerun) : (c.runAgain r).q = c.q :=
  (congrArg Ctx.q (runAgain_eq c r) :)
@[simp] theorem runAgain_t (c : Ctx) (r : Option Rerun) : (c.runAgain r).t = c.t :=
  (congrArg Ctx.t (runAgain_eq c r) :)
@[simp] theorem runAgain_creg (c : Ctx) (r : Option Rerun) : (c.runAgain r).creg = c.creg :=
  (congrArg Ctx.creg (runAgain_eq c r) :)
@[simp] theorem runAgain_ps (c : Ctx) (r : Option Rerun) : (c.runAgain r).ps = c.ps :=
  (congrArg Ctx.ps (runAgain_eq c r) :)
@[simp] theorem runAgain_pv (c : Ctx) (r : Option Rerun) : (c.runAgain r).pv = c.pv :=
  (congrArg Ctx.pv (runAgain_eq c r) :)
@[simp] theorem runAgain_pm (c : Ctx) (r : Option Rerun) : (c.runAgain r).pm = c.pm :=
  (congrArg Ctx.pm (runAgain_eq c r) :)
@[simp] theorem runAgain_pend (c : Ctx) (r : Option Rerun) : (c.runAgain r).pend = c.pend :=
  (congrArg Ctx.pend (runAgain_eq c r) :)
@[simp] theorem runAgain_recent (c : Ctx) (r : Option Rerun) : (c.runAgain r).recent = c.recent :=
  (congrArg Ctx.recent (runAgain_eq c r) :)
@[simp] theorem runAgain_lastUse (c : Ctx) (r : Option Rerun) : (c.runAgain r).lastUse = c.lastUse :=
  (congrArg Ctx.lastUse (runAgain_eq c r) :)
@[simp] theorem runAgain_lastNew (c : Ctx) (r : Option Rerun) : (c.runAgain r).lastNew = c.lastNew :=
  (congrArg Ctx.lastNew (runAgain_eq c r) :)
@[simp] theorem runAgain_convoy (c : Ctx) (r : Option Rerun) : (c.runAgain r).convoy = c.convoy :=
  (congrArg Ctx.convoy (runAgain_eq c r) :)
@[simp] theorem runAgain_ctl (c : Ctx) (r : Option Rerun) : (c.runAgain r).ctl = c.ctl :=
  (congrArg Ctx.ctl (runAgain_eq c r) :)
@[simp] theorem runAgain_held (c : Ctx) (r : Option Rerun) : (c.runAgain r).held = c.held :=
  (congrArg Ctx.held (runAgain_eq c r) :)
@[simp] theorem runAgain_due (c : Ctx) (r : Option Rerun) : (c.runAgain r).due = c.due :=
  (congrArg Ctx.due (runAgain_eq c r) :)
@[simp] theorem runAgain_leaving (c : Ctx) (r : Option Rerun) : (c.runAgain r).leaving = c.leaving :=
  (congrArg Ctx.leaving (runAgain_eq c r) :)
@[simp] theorem runAgain_fate (c : Ctx) (r : Option Rerun) : (c.runAgain r).fate = c.fate :=
  (congrArg Ctx.fate (runAgain_eq c r) :)
@[simp] theorem runAgain_aside (c : Ctx) (r : Option Rerun) : (c.runAgain r).aside = c.aside :=
  (congrArg Ctx.aside (runAgain_eq c r) :)
@[simp] theorem runAgain_cleans (c : Ctx) (r : Option Rerun) : (c.runAgain r).cleans = c.cleans :=
  (congrArg Ctx.cleans (runAgain_eq c r) :)
@[simp] theorem runAgain_cut (c : Ctx) (r : Option Rerun) : (c.runAgain r).cut = c.cut :=
  (congrArg Ctx.cut (runAgain_eq c r) :)
@[simp] theorem runAgain_posted (c : Ctx) (r : Option Rerun) : (c.runAgain r).posted = c.posted :=
  (congrArg Ctx.posted (runAgain_eq c r) :)
@[simp] theorem runAgain_news (c : Ctx) (r : Option Rerun) : (c.runAgain r).news = c.news :=
  (congrArg Ctx.news (runAgain_eq c r) :)
@[simp] theorem runAgain_mq (c : Ctx) (r : Option Rerun) : (c.runAgain r).mq = c.mq :=
  (congrArg Ctx.mq (runAgain_eq c r) :)
@[simp] theorem runAgain_fetches (c : Ctx) (r : Option Rerun) : (c.runAgain r).fetches = c.fetches :=
  (congrArg Ctx.fetches (runAgain_eq c r) :)
@[simp] theorem runAgain_lreq (c : Ctx) (r : Option Rerun) : (c.runAgain r).lreq = c.lreq :=
  (congrArg Ctx.lreq (runAgain_eq c r) :)
@[simp] theorem runAgain_lmin (c : Ctx) (r : Option Rerun) : (c.runAgain r).lmin = c.lmin :=
  (congrArg Ctx.lmin (runAgain_eq c r) :)
@[simp] theorem runAgain_icap (c : Ctx) (r : Option Rerun) : (c.runAgain r).icap = c.icap :=
  (congrArg Ctx.icap (runAgain_eq c r) :)
@[simp] theorem runAgain_wgt (c : Ctx) (r : Option Rerun) : (c.runAgain r).wgt = c.wgt :=
  (congrArg Ctx.wgt (runAgain_eq c r) :)
@[simp] theorem runAgain_target (c : Ctx) (r : Option Rerun) : (c.runAgain r).target = c.target :=
  (congrArg Ctx.target (runAgain_eq c r) :)
@[simp] theorem runAgain_order (c : Ctx) (r : Option Rerun) : (c.runAgain r).order = c.order :=
  (congrArg Ctx.order (runAgain_eq c r) :)
@[simp] theorem runAgain_timer (c : Ctx) (r : Option Rerun) : (c.runAgain r).timer = c.timer :=
  (congrArg Ctx.timer (runAgain_eq c r) :)
@[simp] theorem runAgain_monitor (c : Ctx) (r : Option Rerun) : (c.runAgain r).monitor = c.monitor :=
  (congrArg Ctx.monitor (runAgain_eq c r) :)
@[simp] theorem runAgain_waitAt (c : Ctx) (r : Option Rerun) : (c.runAgain r).waitAt = c.waitAt :=
  (congrArg Ctx.waitAt (runAgain_eq c r) :)
@[simp] theorem runAgain_heard (c : Ctx) (r : Option Rerun) : (c.runAgain r).heard = c.heard :=
  (congrArg Ctx.heard (runAgain_eq c r) :)
@[simp] theorem runAgain_sync (c : Ctx) (r : Option Rerun) : (c.runAgain r).sync = c.sync :=
  (congrArg Ctx.sync (runAgain_eq c r) :)
@[simp] theorem runAgain_vtime (c : Ctx) (r : Option Rerun) : (c.runAgain r).vtime = c.vtime :=
  (congrArg Ctx.vtime (runAgain_eq c r) :)
@[simp] theorem runAgain_views (c : Ctx) (r : Option Rerun) : (c.runAgain r).views = c.views :=
  (congrArg Ctx.views (runAgain_eq c r) :)
@[simp] theorem runAgain_image (c : Ctx) (r : Option Rerun) : (c.runAgain r).image = c.image :=
  (congrArg Ctx.image (runAgain_eq c r) :)
@[simp] theorem runAgain_evicted (c : Ctx) (r : Option Rerun) : (c.runAgain r).evicted = c.evicted :=
  (congrArg Ctx.evicted (runAgain_eq c r) :)
@[simp] theorem lightReturn_status (c : Ctx) : c.lightReturn.status = c.status := by
  simp only [Ctx.lightReturn, runAgain_status, setCr_status]
@[simp] theorem lightReturn_slot (c : Ctx) : c.lightReturn.slot = c.slot := by
  simp only [Ctx.lightReturn, runAgain_slot, setCr_slot]
@[simp] theorem lightReturn_part (c : Ctx) : c.lightReturn.part = c.part := by
  simp only [Ctx.lightReturn, runAgain_part, setCr_part]
@[simp] theorem lightReturn_cluster (c : Ctx) : c.lightReturn.cluster = c.cluster := by
  simp only [Ctx.lightReturn, runAgain_cluster, setCr_cluster]
@[simp] theorem lightReturn_hart (c : Ctx) : c.lightReturn.hart = c.hart := by
  simp only [Ctx.lightReturn, runAgain_hart, setCr_hart]
@[simp] theorem lightReturn_code (c : Ctx) : c.lightReturn.code = c.code := by
  simp only [Ctx.lightReturn, runAgain_code, setCr_code]
@[simp] theorem lightReturn_last (c : Ctx) : c.lightReturn.last = c.pc := by
  simp only [Ctx.lightReturn, runAgain_last]
@[simp] theorem lightReturn_s (c : Ctx) : c.lightReturn.s = c.s := by
  simp only [Ctx.lightReturn, runAgain_s, setCr_s]
@[simp] theorem lightReturn_v (c : Ctx) : c.lightReturn.v = c.v := by
  simp only [Ctx.lightReturn, runAgain_v, setCr_v]
@[simp] theorem lightReturn_m (c : Ctx) : c.lightReturn.m = c.m := by
  simp only [Ctx.lightReturn, runAgain_m, setCr_m]
@[simp] theorem lightReturn_q (c : Ctx) : c.lightReturn.q = c.q := by
  simp only [Ctx.lightReturn, runAgain_q, setCr_q]
@[simp] theorem lightReturn_t (c : Ctx) : c.lightReturn.t = c.t := by
  simp only [Ctx.lightReturn, runAgain_t, setCr_t]
@[simp] theorem lightReturn_ps (c : Ctx) : c.lightReturn.ps = c.ps := by
  simp only [Ctx.lightReturn, runAgain_ps, setCr_ps]
@[simp] theorem lightReturn_pv (c : Ctx) : c.lightReturn.pv = c.pv := by
  simp only [Ctx.lightReturn, runAgain_pv, setCr_pv]
@[simp] theorem lightReturn_pm (c : Ctx) : c.lightReturn.pm = c.pm := by
  simp only [Ctx.lightReturn, runAgain_pm, setCr_pm]
@[simp] theorem lightReturn_pend (c : Ctx) : c.lightReturn.pend = c.pend := by
  simp only [Ctx.lightReturn, runAgain_pend, setCr_pend]
@[simp] theorem lightReturn_recent (c : Ctx) : c.lightReturn.recent = c.recent := by
  simp only [Ctx.lightReturn, runAgain_recent, setCr_recent]
@[simp] theorem lightReturn_lastUse (c : Ctx) : c.lightReturn.lastUse = c.lastUse := by
  simp only [Ctx.lightReturn, runAgain_lastUse, setCr_lastUse]
@[simp] theorem lightReturn_lastNew (c : Ctx) : c.lightReturn.lastNew = c.lastNew := by
  simp only [Ctx.lightReturn, runAgain_lastNew, setCr_lastNew]
@[simp] theorem lightReturn_convoy (c : Ctx) : c.lightReturn.convoy = { drain := true } := by
  simp only [Ctx.lightReturn, runAgain_convoy]
@[simp] theorem lightReturn_ctl (c : Ctx) : c.lightReturn.ctl = c.ctl := by
  simp only [Ctx.lightReturn, runAgain_ctl, setCr_ctl]
@[simp] theorem lightReturn_held (c : Ctx) : c.lightReturn.held = false := by
  simp only [Ctx.lightReturn, runAgain_held]
@[simp] theorem lightReturn_due (c : Ctx) : c.lightReturn.due = c.due := by
  simp only [Ctx.lightReturn, runAgain_due, setCr_due]
@[simp] theorem lightReturn_leaving (c : Ctx) : c.lightReturn.leaving = c.leaving := by
  simp only [Ctx.lightReturn, runAgain_leaving, setCr_leaving]
@[simp] theorem lightReturn_fate (c : Ctx) : c.lightReturn.fate = .retired := by
  simp only [Ctx.lightReturn, runAgain_fate]
@[simp] theorem lightReturn_aside (c : Ctx) : c.lightReturn.aside = none := by
  simp only [Ctx.lightReturn, runAgain_aside]
@[simp] theorem lightReturn_cleans (c : Ctx) : c.lightReturn.cleans = c.cleans := by
  simp only [Ctx.lightReturn, runAgain_cleans, setCr_cleans]
@[simp] theorem lightReturn_cut (c : Ctx) : c.lightReturn.cut = c.cut := by
  simp only [Ctx.lightReturn, runAgain_cut, setCr_cut]
@[simp] theorem lightReturn_posted (c : Ctx) : c.lightReturn.posted = c.posted := by
  simp only [Ctx.lightReturn, runAgain_posted, setCr_posted]
@[simp] theorem lightReturn_news (c : Ctx) : c.lightReturn.news = c.news := by
  simp only [Ctx.lightReturn, runAgain_news, setCr_news]
@[simp] theorem lightReturn_mq (c : Ctx) : c.lightReturn.mq = c.mq := by
  simp only [Ctx.lightReturn, runAgain_mq, setCr_mq]
@[simp] theorem lightReturn_fetches (c : Ctx) : c.lightReturn.fetches = c.fetches := by
  simp only [Ctx.lightReturn, runAgain_fetches, setCr_fetches]
@[simp] theorem lightReturn_lreq (c : Ctx) : c.lightReturn.lreq = c.lreq := by
  simp only [Ctx.lightReturn, runAgain_lreq, setCr_lreq]
@[simp] theorem lightReturn_lmin (c : Ctx) : c.lightReturn.lmin = c.lmin := by
  simp only [Ctx.lightReturn, runAgain_lmin, setCr_lmin]
@[simp] theorem lightReturn_icap (c : Ctx) : c.lightReturn.icap = c.icap := by
  simp only [Ctx.lightReturn, runAgain_icap, setCr_icap]
@[simp] theorem lightReturn_wgt (c : Ctx) : c.lightReturn.wgt = c.wgt := by
  simp only [Ctx.lightReturn, runAgain_wgt, setCr_wgt]
@[simp] theorem lightReturn_target (c : Ctx) : c.lightReturn.target = c.target := by
  simp only [Ctx.lightReturn, runAgain_target, setCr_target]
@[simp] theorem lightReturn_order (c : Ctx) : c.lightReturn.order = c.order := by
  simp only [Ctx.lightReturn, runAgain_order, setCr_order]
@[simp] theorem lightReturn_timer (c : Ctx) : c.lightReturn.timer = c.timer := by
  simp only [Ctx.lightReturn, runAgain_timer, setCr_timer]
@[simp] theorem lightReturn_monitor (c : Ctx) : c.lightReturn.monitor = c.monitor := by
  simp only [Ctx.lightReturn, runAgain_monitor, setCr_monitor]
@[simp] theorem lightReturn_waitAt (c : Ctx) : c.lightReturn.waitAt = c.waitAt := by
  simp only [Ctx.lightReturn, runAgain_waitAt, setCr_waitAt]
@[simp] theorem lightReturn_heard (c : Ctx) : c.lightReturn.heard = c.heard := by
  simp only [Ctx.lightReturn, runAgain_heard, setCr_heard]
@[simp] theorem lightReturn_sync (c : Ctx) : c.lightReturn.sync = c.sync := by
  simp only [Ctx.lightReturn, runAgain_sync, setCr_sync]
@[simp] theorem lightReturn_vtime (c : Ctx) : c.lightReturn.vtime = c.vtime := by
  simp only [Ctx.lightReturn, runAgain_vtime, setCr_vtime]
@[simp] theorem lightReturn_views (c : Ctx) : c.lightReturn.views = c.views := by
  simp only [Ctx.lightReturn, runAgain_views, setCr_views]
@[simp] theorem lightReturn_image (c : Ctx) : c.lightReturn.image = c.image := by
  simp only [Ctx.lightReturn, runAgain_image, setCr_image]
@[simp] theorem lightReturn_evicted (c : Ctx) : c.lightReturn.evicted = c.evicted.filter fun e => e.1 != 7 := by
  simp only [Ctx.lightReturn, runAgain_evicted, setCr_evicted]

end Sys2Proof.Machine
end

