-- ==== Sys2Proof/Laws/Kept.lean ====
section
/-! SUPPORT. What the shared operations on a context keep: register writes, flags, and the advance of a word. -/

namespace Sys2Proof.Safety

open Sys2Proof.Machine

theorem KeptBut.refl (rs : List PReg) (c : Ctx) : KeptBut rs c c where
  scal _ _ := rfl
  smark _ _ _ _ := rfl
  vec _ _ := ⟨rfl, rfl⟩
  mask _ _ := ⟨rfl, rfl⟩
  ctl _ _ := rfl
  rest := rfl

theorem KeptBut.trans {rs : List PReg} {c d e : Ctx} (h : KeptBut rs c d) (k : KeptBut rs d e) : KeptBut rs c e where
  scal n hn := (k.scal n hn).trans (h.scal n hn)
  smark r b h0 hn := (k.smark r b h0 hn).trans (h.smark r b h0 hn)
  vec n hn := ⟨(k.vec n hn).1.trans (h.vec n hn).1, (k.vec n hn).2.trans (h.vec n hn).2⟩
  mask n hn := ⟨(k.mask n hn).1.trans (h.mask n hn).1, (k.mask n hn).2.trans (h.mask n hn).2⟩
  ctl n hn := (k.ctl n hn).trans (h.ctl n hn)
  rest := by
    have h1 : withRegs c e = withRegs c (withRegs d e) := rfl
    rw [h1, k.rest, h.rest]

theorem KeptBut.mono {rs rs' : List PReg} {c d : Ctx} (h : KeptBut rs c d) (hs : ∀ r ∈ rs, r ∈ rs') : KeptBut rs' c d where
  scal n hn := h.scal n fun k => hn (hs _ k)
  smark r b h0 hn := h.smark r b h0 fun k => hn (hs _ k)
  vec n hn := h.vec n fun k => hn (hs _ k)
  mask n hn := h.mask n fun k => hn (hs _ k)
  ctl n hn := h.ctl n fun k => hn (hs _ k)
  rest := h.rest

theorem vec_getD_eq {α : Type} {n : Nat} (v : Vector α n) (i : Nat) (d : α) : v.getD i d = (v[i]?).getD d := by
  cases v
  simp [Vector.getD, Array.getD_eq_getD_getElem?]

theorem vec_getD_set_ne {α : Type} {n : Nat} (v : Vector α n) (i j : Nat) (x d : α) (h : j ≠ i) :
    (v.setIfInBounds i x).getD j d = v.getD j d := by
  simp [vec_getD_eq, Ne.symm h]

theorem vec_getD_set {α : Type} {n : Nat} (v : Vector α n) (i : Nat) (x d : α) (h : i < n) :
    (v.setIfInBounds i x).getD i d = x := by
  simp [vec_getD_eq, h]

@[simp] theorem cr_setCr_ne (c : Ctx) (n k : Nat) (x : Word) (h : k ≠ n) : (c.setCr n x).cr k = c.cr k :=
  vec_getD_set_ne _ _ _ _ _ h

theorem cr_setCr (c : Ctx) (n : Nat) (x : Word) (h : n < 32) : (c.setCr n x).cr n = x := vec_getD_set _ _ _ _ h

/-! ### Updates that keep every register -/

theorem kept_of_regs {rs : List PReg} {c d : Ctx} (hs : d.s = c.s) (hp : d.ps = c.ps) (hv : d.v = c.v) (hpv : d.pv = c.pv)
    (hm : d.m = c.m) (hpm : d.pm = c.pm) (hc : d.creg = c.creg) (hr : withRegs c d = c) : KeptBut rs c d where
  scal _ _ := by rw [hs]
  smark _ _ _ _ := by simp [Ctx.poisonedS, hp]
  vec _ _ := by simp [hv, hpv]
  mask _ _ := by simp [hm, hpm]
  ctl _ _ := by simp [Ctx.cr, hc]
  rest := hr

theorem kept_advance (rs : List PReg) (c : Ctx) : KeptBut rs c c.advance := by
  unfold Ctx.advance
  split <;> exact kept_of_regs rfl rfl rfl rfl rfl rfl rfl rfl

theorem kept_setCr (rs : List PReg) (c : Ctx) (n : Nat) (x : Word) (h : .c n ∈ rs) : KeptBut rs c (c.setCr n x) where
  scal _ _ := rfl
  smark _ _ _ _ := rfl
  vec _ _ := ⟨rfl, rfl⟩
  mask _ _ := ⟨rfl, rfl⟩
  ctl k hk := cr_setCr_ne c n k x fun e => hk (e ▸ h)
  rest := rfl

theorem orFlags_zero (c : Ctx) : c.orFlags 0 = c := rfl

theorem kept_orFlags (rs : List PReg) (c : Ctx) (f : Flags) (h : .c 14 ∈ rs) : KeptBut rs c (c.orFlags f) := by
  unfold Ctx.orFlags
  split
  · exact .refl _ _
  · exact kept_setCr rs c 14 _ h

/-! ### Register writes -/

theorem poisonedS_setBits (c : Ctx) (n : Nat) (r : Reg) (half : Bool) (h : r.toNat ≠ n) :
    Ctx.poisonedS { c with ps := setBits c.ps (2 * n) 2 0 } half r = c.poisonedS half r := by
  simp only [Ctx.poisonedS]
  rw [getLsbD_setBits_out _ _ _ _ _ (by omega), getLsbD_setBits_out _ _ _ _ _ (by omega)]

theorem kept_clearMarks (rs : List PReg) (c : Ctx) (r : PReg) (h : r = .s 0 ∨ r ∈ rs) : KeptBut rs c (c.clearMarks r) := by
  cases r with
  | s n => exact { KeptBut.refl rs c with
      smark := fun q b h0 hq => poisonedS_setBits c n q b fun e => h.elim
        (fun k => h0 (BitVec.eq_of_toNat_eq (by injection k with k; simp [e, k]))) (fun k => hq (e ▸ k))
      rest := rfl }
  | v n => exact { KeptBut.refl rs c with
      vec := fun k hk => ⟨rfl, vec_getD_set_ne _ _ _ _ _ fun e => hk (e ▸ h.resolve_left nofun)⟩, rest := rfl }
  | m n => exact { KeptBut.refl rs c with
      mask := fun k hk => ⟨rfl, vec_getD_set_ne _ _ _ _ _ fun e => hk (e ▸ h.resolve_left nofun)⟩, rest := rfl }
  | c n => exact .refl rs c
  | q n => exact .refl rs c
  | t n => exact .refl rs c

theorem kept_putReg (rs : List PReg) (c : Ctx) (r : PReg) (x : Nat) (hit : BitVec 32) (h : r = .s 0 ∨ r ∈ rs) :
    KeptBut rs c (c.putReg r x hit) := by
  refine (kept_of_regs (c := c) (d := { c with
      lastUse := c.lastUse.filter (· != r), lastNew := c.lastNew.filter (· != r)
      evicted := c.evicted.filter fun e => r == .s 0 || r == .m 0 || !regHit c.lanes r hit.getLsbD e.1 })
    rfl rfl rfl rfl rfl rfl rfl rfl).trans ?_
  unfold Ctx.putReg
  cases r with
  | s n =>
    dsimp only
    split
    · exact .refl _ _
    · rename_i h0
      have h := h.resolve_left fun e => h0 (by injection e)
      exact { KeptBut.refl rs _ with scal := fun k hk => vec_getD_set_ne _ _ _ _ _ fun e => hk (e ▸ h), rest := rfl }
  | v n =>
    have h := h.resolve_left nofun
    exact { KeptBut.refl rs _ with vec := fun k hk => ⟨vec_getD_set_ne _ _ _ _ _ fun e => hk (e ▸ h), rfl⟩, rest := rfl }
  | m n =>
    have h := h.resolve_left nofun
    dsimp only
    split
    · exact .refl _ _
    · exact { KeptBut.refl rs _ with mask := fun k hk => ⟨vec_getD_set_ne _ _ _ _ _ fun e => hk (e ▸ h), rfl⟩, rest := rfl }
  | c n => exact kept_setCr rs _ n _ (h.resolve_left nofun)
  | q n => exact .refl _ _
  | t n => exact .refl _ _

theorem kept_writeReg (rs : List PReg) (c : Ctx) (r : PReg) (x : Nat) (h : r = .s 0 ∨ r ∈ rs) : KeptBut rs c (c.writeReg r x) := by
  unfold Ctx.writeReg
  refine KeptBut.trans ?_ (kept_putReg rs _ r x _ h)
  refine KeptBut.trans ?_ (kept_clearMarks rs _ r h)
  exact kept_of_regs rfl rfl rfl rfl rfl rfl rfl rfl

theorem kept_writes (rs : List PReg) (ws : List (PReg × Nat)) (c : Ctx) (h : ∀ w ∈ ws, w.1 = .s 0 ∨ w.1 ∈ rs) :
    KeptBut rs c (ws.foldl (fun c w => c.writeReg w.1 w.2) c) := by
  induction ws generalizing c with
  | nil => exact .refl rs c
  | cons w r ih =>
    exact (kept_writeReg rs c w.1 w.2 (h w (by simp))).trans (ih _ fun v hv => h v (by simp [hv]))

/-- A fixed-latency word keeps every register but those it writes and, where it raises flags, ctl.fflags. -/
theorem kept_produceFixed (rs : List PReg) (s : State) (ws : List (PReg × Nat)) (fl : Flags)
    (h : ∀ w ∈ ws, w.1 = .s 0 ∨ w.1 ∈ rs) (hf : fl = 0 ∨ .c 14 ∈ rs) : KeptBut rs s.cur (s.produceFixed ws fl).cur := by
  refine (kept_writes rs ws s.cur h).trans ?_
  show KeptBut rs _ (Ctx.orFlags _ fl)
  rcases hf with rfl | hf
  · rw [orFlags_zero]; exact .refl _ _
  · exact kept_orFlags rs _ fl hf

/-- The scalar destination of a word is s0, whose writes are discarded, or among the registers that may change. -/
theorem dst_ok (rd : Reg) : PReg.s rd.toNat = .s 0 ∨ PReg.s rd.toNat ∈ scalarDst rd := by
  unfold scalarDst
  by_cases h : rd = 0
  · subst h; exact .inl rfl
  · exact .inr (by rw [if_neg h]; exact List.mem_singleton.mpr rfl)

/-! ### Values -/

theorem regVal_writeReg_s (c : Ctx) (n x : Nat) (h : n < 64) :
    (c.writeReg (.s n) x).regVal (.s n) = if n = 0 then 0 else x % 2 ^ 64 := by
  unfold Ctx.writeReg Ctx.putReg Ctx.regVal Ctx.clearMarks
  dsimp only
  split
  · rfl
  · simp [vec_getD_set _ _ _ _ h]

theorem regVal_orFlags (c : Ctx) (f : Flags) (n : Nat) : (c.orFlags f).regVal (.s n) = c.regVal (.s n) := by
  unfold Ctx.orFlags
  split <;> rfl

theorem regVal_advance (c : Ctx) (r : PReg) : c.advance.regVal r = c.regVal r := by
  unfold Ctx.advance
  split <;> rfl

end Sys2Proof.Safety
end

