-- ==== Sys2Proof/Laws/MemoryOnly.lean ====
section
/-! SUPPORT. The operations of the memory system change nothing but the memory system. -/

namespace Sys2Proof.Safety

open Sys2Proof.Machine

theorem MemoryOnly.refl (s : State) : MemoryOnly s s := ⟨rfl, rfl, rfl, rfl⟩

theorem MemoryOnly.trans {s t u : State} (h : MemoryOnly s t) (k : MemoryOnly t u) : MemoryOnly s u where
  rest := by
    have e : withMemory s u = withMemory s (withMemory t u) := rfl
    rw [e, k.rest, h.rest]
  cur := k.cur.trans h.cur
  others := k.others.trans h.others
  parts := k.parts.trans h.parts

/-- A state update of memory fields alone. -/
theorem memoryOnly_of {s t : State} (h : withMemory s t = s) (hc : t.cur = s.cur) (ho : t.others = s.others)
    (hp : t.parts = s.parts) : MemoryOnly s t := ⟨h, by rw [hc], by rw [ho], by rw [hp]⟩

/-- One more update of memory fields alone. -/
theorem MemoryOnly.upd {s t u : State} (h : MemoryOnly s t) (hm : withMemory t u = t) (hc : u.cur = t.cur)
    (ho : u.others = t.others) (hp : u.parts = t.parts) : MemoryOnly s u := h.trans (memoryOnly_of hm hc ho hp)

theorem memoryOnly_foldl {α : Type} (f : State → α → State) (h : ∀ s x, MemoryOnly s (f s x)) (xs : List α) (s : State) :
    MemoryOnly s (xs.foldl f s) := by
  induction xs generalizing s with
  | nil => exact .refl s
  | cons x r ih => exact (h s x).trans (ih _)

theorem memoryOnly_if {s a b : State} (p : Prop) [Decidable p] (h : MemoryOnly s a) (k : MemoryOnly s b) :
    MemoryOnly s (if p then a else b) := by split <;> assumption

theorem logRec_only (s : State) (code pa part n : Nat) : MemoryOnly s (s.logRec code pa part n) := by
  unfold State.logRec
  exact memoryOnly_of rfl rfl rfl rfl

theorem charge_only (s : State) (ch : Nat) (a : Activity) (n : Nat) : MemoryOnly s (s.charge ch a n) :=
  memoryOnly_of rfl rfl rfl rfl

theorem meet_only (s : State) (l : Nat) : MemoryOnly s (s.meet l) := by
  unfold State.meet
  split
  · have poisoned : ∀ u : State, MemoryOnly s u → MemoryOnly s
        ({ u with mem := u.mem.setPoison l true, latent := u.latent.filter fun e => e.1 != l }.logRec (openCode u.nd) (128 * l) 16 1) :=
      fun u k => k.upd rfl rfl rfl rfl
    exact poisoned _ (memoryOnly_if _ (charge_only ..) (.refl s))
  · split
    · exact logRec_only ..
    · exact .refl s

theorem healed_only (s : State) (l : Nat) : MemoryOnly s (s.healed l) := memoryOnly_of rfl rfl rfl rfl

theorem dramWrite_only (s : State) (l key : Nat) (d : LineVal) (m : ByteMask) (p : Bool) :
    MemoryOnly s (s.dramWrite l key d m p) := by
  have met : MemoryOnly s (if m = fullMask then s else s.meet l) := memoryOnly_if _ (.refl s) (meet_only s l)
  unfold State.dramWrite
  split
  · exact .refl s
  · exact (met.trans (healed_only _ l)).upd rfl rfl rfl rfl

theorem l2WriteBack_only (s : State) (c : CLine) : MemoryOnly s (s.l2WriteBack c) := by
  unfold State.l2WriteBack
  split
  · exact .refl s
  · exact dramWrite_only ..

/-- Other lines in the L2 slices. -/
theorem MemoryOnly.withL2 {s u : State} (h : MemoryOnly s u) (x : List CLine) : MemoryOnly s { u with l2 := x } :=
  h.upd rfl rfl rfl rfl

theorem l2Fetch_only (s : State) (l key : Nat) : MemoryOnly s (s.l2Fetch l key).2 := by
  have room : ∀ u : State, MemoryOnly s u → MemoryOnly s
      (match cacheVictim u.l2 (sliceOf l) (u.l2Ways (sliceOf l)) l2Set l with
        | some v => { u.l2WriteBack v with l2 := cacheDrop u.l2 v.owner v.line }
        | none => u) := by
    intro u k
    split
    · exact (k.trans (l2WriteBack_only u _)).withL2 _
    · exact k
  have fill : ∀ u : State, MemoryOnly s u → ∀ x : State → List CLine,
      MemoryOnly s { u.meet l with l2 := x (u.meet l) } := fun u k x => (k.trans (meet_only u l)).withL2 _
  unfold State.l2Fetch
  dsimp only
  split
  · rename_i c _
    split
    · exact (MemoryOnly.refl s).withL2 _
    · exact fill _ (room _ ((l2WriteBack_only s c).withL2 _)) fun t => cachePut t.l2 _
  · exact fill _ (room s (.refl s)) fun t => cachePut t.l2 _

theorem homeLine_only (s : State) (l key : Nat) (ch : Bool) : MemoryOnly s (s.homeLine l key ch).2 := by
  unfold State.homeLine
  split
  · exact l2Fetch_only s l key
  · exact meet_only s l

theorem homeMerge_only (s : State) (l key : Nat) (ch : Bool) (d : LineVal) (m : ByteMask) (p : Bool) :
    MemoryOnly s (s.homeMerge l key ch d m p) := by
  unfold State.homeMerge
  split
  · exact .refl s
  · split
    · exact (l2Fetch_only s l key).upd rfl rfl rfl rfl
    · exact dramWrite_only ..

theorem noteWrite_only (s : State) (l : Nat) (f : Option Nat) : MemoryOnly s (s.noteWrite l f) where
  rest := rfl
  cur := by unfold State.noteWrite unheard; dsimp only; split <;> rfl
  others := by
    unfold State.noteWrite
    simp only [List.map_map]
    congr 1
    funext c
    simp only [Function.comp, unheard]
    split <;> rfl
  parts := rfl

theorem homeApply_only (s : State) (l key : Nat) (ch : Bool) (d : LineVal) (m : ByteMask) (p : Bool) :
    MemoryOnly s (s.homeApply l key ch d m p) := (homeMerge_only ..).trans (noteWrite_only ..)

theorem map_setIfInBounds_same {α β : Type} {n : Nat} (v : Vector α n) (i : Nat) (x d : α) (f : α → β)
    (h : f x = f (v.getD i d)) : (v.setIfInBounds i x).map f = v.map f := by
  ext j hj
  simp only [Vector.getElem_map, Vector.getElem_setIfInBounds]
  split
  · subst_vars
    rw [h, vec_getD_eq]
    simp [hj]
  · rfl

theorem MemoryOnly.raise {s u : State} (k : MemoryOnly s u) (x : List (Nat × Nat)) : MemoryOnly s { u with msix := x } :=
  k.upd rfl rfl rfl rfl

theorem logEvent_only (s : State) (code pa part n vec : Nat) : MemoryOnly s (s.logEvent code pa part n vec) := by
  unfold State.logEvent
  exact (logRec_only ..).raise _

theorem launchWrite_only (s : State) (p : Nat) (v : Word) : MemoryOnly s (s.launchWrite p v) := by
  unfold State.launchWrite
  dsimp only
  split
  · exact logEvent_only ..
  · exact ⟨rfl, rfl, rfl, map_setIfInBounds_same _ _ _ {} _ rfl⟩

theorem intpostWrite_only (s : State) (p : Nat) (v : Word) : MemoryOnly s (s.intpostWrite p v) := by
  unfold State.intpostWrite
  dsimp only
  split
  · exact logEvent_only ..
  · exact memoryOnly_of rfl rfl rfl rfl

theorem setLink_only (s : State) (l : Link) : MemoryOnly s (s.setLink l) := memoryOnly_of rfl rfl rfl rfl

theorem writeBeyond_only (s : State) (p pa n x : Nat) (bad : Bool) : MemoryOnly s (s.writeBeyond p pa n x bad) := by
  unfold State.writeBeyond
  dsimp only
  split
  · exact (logRec_only ..).raise _
  · split
    · exact memoryOnly_of rfl rfl rfl rfl
    · split
      · exact setLink_only ..
      · split
        · exact setLink_only ..
        · exact memoryOnly_of rfl rfl rfl rfl

theorem emit_only (s : State) (w : Send) : MemoryOnly s (s.emit w) := by
  unfold State.emit
  split
  · exact .refl s
  · exact memoryOnly_of rfl rfl rfl rfl

theorem send_only (s : State) (c l key : Nat) (ch : Bool) (d : LineVal) (m : ByteMask) (p : Bool) (h : Option Nat) :
    MemoryOnly s (s.send c l key ch d m p h) := emit_only ..

/-- What a write does where it arrives: memory, LAUNCH, INTPOST or what leaves the module. -/
theorem land_only (s : State) (t : Send) : MemoryOnly s (s.land t) := by
  unfold State.land
  dsimp only
  split
  · exact (homeMerge_only ..).trans (noteWrite_only ..)
  · exact (homeMerge_only ..).trans (noteWrite_only ..)
  · exact (homeMerge_only ..).trans (noteWrite_only ..)
  · exact memoryOnly_if _ (launchWrite_only ..) (intpostWrite_only ..)
  · exact writeBeyond_only ..

theorem applySend_only (s : State) (t : Send) : MemoryOnly s (s.applySend t) := (land_only s t).upd rfl rfl rfl rfl

theorem sendOut_only (s : State) (o : Nat) (h : Option Nat) (l : Leaf) (pa : Nat) (d : LineVal) (m : ByteMask) (p : Bool) :
    MemoryOnly s (s.sendOut o h l pa d m p) := memoryOnly_if _ (writeBeyond_only ..) (emit_only ..)

theorem drain_only (s : State) (v : List Nat) : MemoryOnly s (s.drain v) := memoryOnly_foldl _ applySend_only _ _

theorem ownDrain_only (s : State) (t : Send) : MemoryOnly s (s.ownDrain t) := drain_only ..

theorem drainLine_only (s : State) (c l : Nat) : MemoryOnly s (s.drainLine c l) := by
  unfold State.drainLine
  split
  · exact drain_only ..
  · exact .refl s

theorem homeServe_only (s : State) (o l key : Nat) (ch : Bool) : MemoryOnly s (s.homeServe o l key ch).2 :=
  (homeLine_only ..).upd rfl rfl rfl rfl

theorem homeRead_only (s : State) (c l key : Nat) (ch : Bool) : MemoryOnly s (s.homeRead c l key ch).2 :=
  (drainLine_only ..).trans (homeServe_only ..)

theorem ccEvict_only (s : State) (c : CLine) : MemoryOnly s (s.ccEvict c) :=
  (send_only ..).upd rfl rfl rfl rfl

theorem refreshGath_only (s : State) (o l : Nat) (d : LineVal) (b : Bool) : MemoryOnly s (s.refreshGath o l d b) :=
  memoryOnly_of rfl rfl rfl rfl

theorem ccRoom_only (s : State) (o set : Nat) : MemoryOnly s (s.ccRoom o set) := by
  unfold State.ccRoom
  dsimp only
  split
  · exact .refl s
  · split
    · exact memoryOnly_if _ (memoryOnly_of rfl rfl rfl rfl) (ccEvict_only ..)
    · exact memoryOnly_of rfl rfl rfl rfl
    · exact ccEvict_only ..
    · exact .refl s

theorem ccPut_only (s : State) (c : CLine) : MemoryOnly s (s.ccPut c) := memoryOnly_of rfl rfl rfl rfl

theorem ccFetch_only (s : State) (o l key : Nat) : MemoryOnly s (s.ccFetch o l key).2 := by
  have h1 : ∀ (u : State) (x : CLine) (d : LineVal) (b : Bool), MemoryOnly s u → MemoryOnly s ((u.ccPut x).refreshGath o l d b) :=
    fun _ _ _ _ k => k.upd rfl rfl rfl rfl
  unfold State.ccFetch
  split
  · rename_i c _
    split
    · exact h1 _ _ _ _ (homeRead_only s o l c.key false)
    · exact ccPut_only ..
  · exact h1 _ _ _ _ ((ccRoom_only ..).trans (homeRead_only _ o l key false))

theorem ccWrite_only (s : State) (o h l key : Nat) (d : LineVal) (m : ByteMask) (p : Bool) :
    MemoryOnly s (s.ccWrite o h l key d m p) := by
  unfold State.ccWrite
  split
  · exact .refl s
  · exact (ccFetch_only ..).upd rfl rfl rfl rfl

theorem l1WriteBack_only (s : State) (c : CLine) : MemoryOnly s (s.l1WriteBack c) := ccWrite_only ..

theorem l1Evict_only (s : State) (c : CLine) : MemoryOnly s (s.l1Evict c) :=
  (l1WriteBack_only ..).upd rfl rfl rfl rfl

theorem l1Fetch_only (s : State) (o h l key : Nat) : MemoryOnly s (s.l1Fetch o h l key).2 := by
  unfold State.l1Fetch
  dsimp only
  split
  · split
    · exact (ccFetch_only ..).upd rfl rfl rfl rfl
    · exact memoryOnly_of rfl rfl rfl rfl
  · split
    · exact ((l1Evict_only ..).trans (ccFetch_only ..)).upd rfl rfl rfl rfl
    · exact (ccFetch_only ..).upd rfl rfl rfl rfl

theorem l1Write_only (s : State) (o h l key : Nat) (d : LineVal) (m : ByteMask) :
    MemoryOnly s (s.l1Write o h l key d m) := by
  unfold State.l1Write
  exact (l1Fetch_only ..).upd rfl rfl rfl rfl

theorem dupTags_only (s : State) (o l : Nat) : MemoryOnly s (s.dupTags o l) := memoryOnly_foldl _ l1Evict_only _ _

theorem ccSend_only (s : State) (c : CLine) : MemoryOnly s (s.ccSend c) := send_only ..

theorem portDown_only (s : State) (port : Nat) : MemoryOnly s (s.portDown port) := by
  unfold State.portDown
  have h := logEvent_only s 0 0 (s.portPart port) 1 2
  exact ((memoryOnly_if _ (h.trans (logEvent_only ..)) h).trans (setLink_only ..)).trans
    (memoryOnly_foldl _ (fun _ _ => writeBeyond_only ..) _ _)

theorem ackFlits_only (s : State) (o : Nat) : MemoryOnly s (s.ackFlits o) :=
  (memoryOnly_foldl _ portDown_only _ s).upd rfl rfl rfl rfl

theorem releaseCaches_only (s : State) (o h : Nat) (sc : Scope) : MemoryOnly s (s.releaseCaches o h sc) := by
  have h1 := memoryOnly_foldl _ l1WriteBack_only (s.l1.filter fun c => c.owner == l1Owner o h && c.dirty != 0) s
  have h2 : ∀ (u : State) (x : List CLine), MemoryOnly s u → MemoryOnly s { u with l1 := x } :=
    fun _ _ k => k.upd rfl rfl rfl rfl
  have h3 : ∀ (u : State) (x : List CLine), MemoryOnly s u → MemoryOnly s { u with cc := x } :=
    fun _ _ k => k.upd rfl rfl rfl rfl
  have h5 : ∀ (u : State) (x : List Send), MemoryOnly s u → MemoryOnly s (x.foldl State.ownDrain u) :=
    fun u x k => k.trans (memoryOnly_foldl _ ownDrain_only x u)
  have h4 : ∀ u : State, MemoryOnly s u → MemoryOnly s (if sc = .s then u.ackFlits o else u) :=
    fun _ k => memoryOnly_if _ (k.trans (ackFlits_only ..)) k
  unfold State.releaseCaches
  split
  · exact .refl s
  · dsimp only
    split
    · exact h4 _ ((h3 _ _ ((h5 _ _ (h2 _ _ h1)).trans (memoryOnly_foldl _ ccSend_only _ _))).trans (drain_only ..))
    · exact h5 _ _ (h2 _ _ h1)

theorem acquireCaches_only (s : State) (o h : Nat) (sc : Scope) : MemoryOnly s (s.acquireCaches o h sc) := by
  unfold State.acquireCaches
  split
  · exact .refl s
  · exact memoryOnly_of rfl rfl rfl rfl

end Sys2Proof.Safety
end

