-- ==== Sys2Proof/Laws/AccessOnly.lean ====
section
/-! SUPPORT. Translations and accesses change nothing but the memory system, and writes to windows the tiles and the scratch
besides. -/

namespace Sys2Proof.Safety

open Sys2Proof.Machine

theorem poke_only (s : State) (pa n x : Nat) : MemoryOnly s (s.poke pa n x) := homeApply_only ..

theorem meetEntry_only (s : State) (pa : Nat) : MemoryOnly s (s.meetEntry pa) := by
  unfold State.meetEntry
  split
  · exact meet_only ..
  · exact .refl s

theorem meetWalk_only (s : State) (p asid va : Nat) : MemoryOnly s (s.meetWalk p asid va) := by
  unfold State.meetWalk
  split
  · exact .refl s
  · exact memoryOnly_foldl _ (fun u (e : Nat × Nat) => meetEntry_only u e.2) _ _

theorem cacheWalk_only (s : State) (c p asid va : Nat) : MemoryOnly s (s.cacheWalk c p asid va) := by
  refine memoryOnly_foldl _ (fun u e => ?_) _ _
  dsimp only
  split
  · exact .refl u
  · exact memoryOnly_of rfl rfl rfl rfl

theorem cacheLeaf_only (s : State) (t : Tlb) : MemoryOnly s (s.cacheLeaf t) := memoryOnly_of rfl rfl rfl rfl

theorem useLeaf_only (s : State) (c p asid va : Nat) (acc : Acc) (l : Leaf) : MemoryOnly s (s.useLeaf c p asid va acc l) := by
  have h : MemoryOnly s ((s.meetWalk p asid va).cacheWalk c p asid va) := (meetWalk_only ..).trans (cacheWalk_only ..)
  unfold State.useLeaf
  dsimp only
  split
  · exact h.trans (cacheLeaf_only ..)
  · exact (h.trans (poke_only ..)).trans (cacheLeaf_only ..)

theorem useAll_only (s : State) (acc : Acc) (ps : List (Nat × Nat × Loc)) : MemoryOnly s (s.useAll acc ps) := by
  refine memoryOnly_foldl _ (fun u q => ?_) _ _
  split
  · exact useLeaf_only ..
  · exact .refl u

theorem freshen_only (s : State) (o h l : Nat) (sc : Scope) : MemoryOnly s (s.freshen o h l sc) := by
  unfold State.freshen
  split
  · exact .refl s
  · dsimp only
    split <;> exact memoryOnly_of rfl rfl rfl rfl

theorem countDiscarded_only (s : State) (p n : Nat) : MemoryOnly s (s.countDiscarded p n) :=
  ⟨rfl, rfl, rfl, map_setIfInBounds_same _ _ _ {} _ rfl⟩

theorem readBeyond_only (s : State) (p pa n : Nat) : MemoryOnly s (s.readBeyond p pa n).2 := memoryOnly_of rfl rfl rfl rfl

theorem lineRead_only (s : State) (o h : Nat) (v : Bool) (l : Leaf) (n : Nat) : MemoryOnly s (s.lineRead o h v l n).2 := by
  unfold State.lineRead
  split
  · split
    · exact (dupTags_only s o n).trans (ccFetch_only ..)
    · exact l1Fetch_only ..
  · exact homeRead_only ..

theorem lineWrite_only (s : State) (o h : Nat) (v : Bool) (l : Leaf) (n : Nat) (d : LineVal) (m : ByteMask) (p : Bool) :
    MemoryOnly s (s.lineWrite o h v l n d m p) := by
  unfold State.lineWrite
  split
  · split
    · exact (dupTags_only s o n).trans (ccWrite_only ..)
    · exact l1Write_only ..
  · exact send_only ..

/-- A read at any place. -/
theorem readAt_only (s : State) (o h : Nat) (v : Bool) (loc : Loc) (n : Nat) : MemoryOnly s (s.readAt o h v loc n).2 := by
  unfold State.readAt
  split
  · exact .refl s
  · exact .refl s
  · split
    · exact .refl s
    · split
      · exact lineRead_only ..
      · exact lineRead_only ..
      · exact (drainLine_only s o _).trans (readBeyond_only ..)

theorem readPieces_only (s : State) (o h : Nat) (v : Bool) (ps : List (Nat × Nat × Loc)) :
    MemoryOnly s (s.readPieces o h v ps).2 := by
  induction ps generalizing s with
  | nil => exact .refl s
  | cons q r ih =>
    obtain ⟨a, n, loc⟩ := q
    exact (readAt_only s o h v loc n).trans (ih _)

theorem writeAt_only (s : State) (o h : Nat) (v : Bool) (loc : Loc) (d : LineVal) (m : ByteMask) (p : Bool) :
    MemoryOnly s (withWindows s (s.writeAt o h v loc d m p)) := by
  have w : ∀ u : State, MemoryOnly s u → MemoryOnly s (withWindows s u) := by
    intro u k
    have e1 : u.tmem = s.tmem := (congrArg State.tmem k.rest :)
    have e2 : u.l2s = s.l2s := (congrArg State.l2s k.rest :)
    have e : withWindows s u = u := by unfold withWindows; rw [← e1, ← e2]
    rwa [e]
  unfold State.writeAt
  split
  · exact memoryOnly_of rfl rfl rfl rfl
  · exact memoryOnly_of rfl rfl rfl rfl
  · split
    · exact w _ (lineWrite_only ..)
    · exact w _ (lineWrite_only ..)
    · exact w _ (sendOut_only ..)

theorem writePieces_only (s : State) (o h : Nat) (v : Bool) (x : Nat) (ps : List (Nat × Nat × Loc)) :
    MemoryOnly s (withWindows s (s.writePieces o h v x ps)) := by
  induction ps generalizing s x with
  | nil => exact .refl s
  | cons q r ih =>
    obtain ⟨a, n, loc⟩ := q
    have key : ∀ u : State, MemoryOnly s (withWindows s u) →
        MemoryOnly s (withWindows s (u.writePieces o h v (x / 2 ^ (8 * n)) r)) := by
      intro u h1
      have h2 := ih u (x / 2 ^ (8 * n))
      exact h1.trans ⟨congrArg (withWindows s) h2.rest, h2.cur, h2.others, h2.parts⟩
    exact key _ (writeAt_only s o h v loc (linePut 0 (a % 128) n x) (byteSpan (a % 128) n) false)

end Sys2Proof.Safety
end

