-- ==== Sys2Proof/Laws/Memory.lean ====
section
/-! SUPPORT. Memory: every operation keeps the canonical form, a line written reads back, and every other byte is as it was. -/

namespace Sys2Proof.Machine

theorem Memory.wf_iff (m : Memory) : m.wf = true ↔
    (m.cells.map Prod.fst).Pairwise (· < ·) ∧ (∀ c ∈ m.cells, c.2 ≠ 0) ∧ m.poison.Pairwise (· < ·) := by
  simp [Memory.wf, and_assoc]

theorem Memory.empty_wf : ({} : Memory).wf = true := by decide

/-- Memory after reset is in its canonical form. -/
theorem State.reset_mem_wf : State.reset.mem.wf = true := Memory.empty_wf

/-! ### Lists in rising order -/

theorem rising_filter {α : Type} {l : List α} {f : α → Nat} (p : α → Bool) (h : (l.map f).Pairwise (· < ·)) :
    ((l.filter p).map f).Pairwise (· < ·) :=
  h.sublist (List.filter_sublist.map f)

theorem rising_three {l : List Nat} {a b c : List Nat} (_ : l = a ++ b ++ c) (ha : a.Pairwise (· < ·)) (hb : b.Pairwise (· < ·))
    (hc : c.Pairwise (· < ·)) (k1 k2 : Nat) (h1 : ∀ x ∈ a, x < k1) (h2 : ∀ x ∈ b, k1 ≤ x ∧ x < k2) (h3 : ∀ x ∈ c, k2 ≤ x)
    (hk : k1 ≤ k2) : l.Pairwise (· < ·) := by
  subst l
  simp only [List.pairwise_append, List.mem_append]
  refine ⟨⟨ha, hb, fun x hx y hy => Nat.lt_of_lt_of_le (h1 x hx) (h2 y hy).1⟩, hc, fun x hx y hy => ?_⟩
  rcases hx with hx | hx
  · exact Nat.lt_of_lt_of_le (h1 x hx) (Nat.le_trans hk (h3 y hy))
  · exact Nat.lt_of_lt_of_le (h2 x hx).2 (h3 y hy)

/-! ### The cells of a line -/

theorem mem_lineCells {l : Nat} {d : LineVal} {c : Host.Cell} (h : c ∈ lineCells l d) :
    ∃ k, k < 128 ∧ c.1 = 128 * l + k ∧ c.2 = d.extractLsb' (8 * k) 8 ∧ c.2 ≠ 0 := by
  simp only [lineCells, List.mem_filterMap, List.mem_range] at h
  obtain ⟨k, hk, e⟩ := h
  split at e
  · cases e
  · cases e; exact ⟨k, hk, rfl, rfl, ‹_›⟩

theorem lineCells_line {l : Nat} {d : LineVal} {c : Host.Cell} (h : c ∈ lineCells l d) : c.1 / 128 = l := by
  obtain ⟨k, hk, e, _⟩ := mem_lineCells h
  omega

theorem lineCells_rising (l : Nat) (d : LineVal) : ((lineCells l d).map Prod.fst).Pairwise (· < ·) := by
  have h : ∀ n, (((List.range n).filterMap fun k =>
      let b := d.extractLsb' (8 * k) 8
      if b = 0 then none else some ((128 * l + k, b) : Host.Cell)).map Prod.fst).Pairwise (· < ·) ∧
      ∀ x ∈ (((List.range n).filterMap fun k =>
        let b := d.extractLsb' (8 * k) 8
        if b = 0 then none else some ((128 * l + k, b) : Host.Cell)).map Prod.fst), x < 128 * l + n := by
    intro n
    induction n with
    | zero => simp
    | succ n ih =>
      simp only [List.range_succ, List.filterMap_append, List.map_append, List.pairwise_append, List.mem_append]
      by_cases hb : d.extractLsb' (8 * n) 8 = 0
      · simp only [List.filterMap_cons, hb, if_true, List.filterMap_nil, List.map_nil]
        refine ⟨⟨ih.1, .nil, by simp⟩, fun x hx => ?_⟩
        rcases hx with hx | hx
        · exact Nat.lt_succ_of_lt (ih.2 x hx)
        · cases hx
      · simp only [List.filterMap_cons, hb, if_false, List.filterMap_nil, List.map_cons, List.map_nil, List.mem_singleton]
        refine ⟨⟨ih.1, List.pairwise_singleton _ _, fun x hx y hy => ?_⟩, fun x hx => ?_⟩
        · subst hy; exact ih.2 x hx
        · rcases hx with hx | hx
          · exact Nat.lt_succ_of_lt (ih.2 x hx)
          · subst hx; exact Nat.lt_succ_self _
  exact (h 128).1

/-! ### Every operation keeps the canonical form -/

theorem Memory.setLine_wf {m : Memory} (l : Nat) (d : LineVal) (h : m.wf = true) : (m.setLine l d).wf = true := by
  obtain ⟨h1, h2, h3⟩ := m.wf_iff.1 h
  refine (wf_iff _).2 ⟨?_, ?_, h3⟩
  · refine rising_three (by simp [setLine]) (rising_filter (fun c => c.1 / 128 < l) h1) (lineCells_rising l d)
      (rising_filter (fun c => l < c.1 / 128) h1) (128 * l) (128 * l + 128) ?_ ?_ ?_ (by omega)
    · simp only [List.mem_map, List.mem_filter, decide_eq_true_eq]
      rintro x ⟨c, ⟨_, hc⟩, rfl⟩
      omega
    · simp only [List.mem_map]
      rintro x ⟨c, hc, rfl⟩
      have := lineCells_line hc
      omega
    · simp only [List.mem_map, List.mem_filter, decide_eq_true_eq]
      rintro x ⟨c, ⟨_, hc⟩, rfl⟩
      omega
  · intro c hc
    simp only [setLine, List.mem_append, List.mem_filter] at hc
    rcases hc with (hc | hc) | hc
    · exact h2 c hc.1
    · obtain ⟨_, _, _, _, e⟩ := mem_lineCells hc
      exact e
    · exact h2 c hc.1

theorem Memory.setPoison_wf {m : Memory} (l : Nat) (p : Bool) (h : m.wf = true) : (m.setPoison l p).wf = true := by
  obtain ⟨h1, h2, h3⟩ := m.wf_iff.1 h
  have hr : (m.poison.filter (· != l)).Pairwise (· < ·) := h3.sublist List.filter_sublist
  refine (wf_iff _).2 ⟨h1, h2, ?_⟩
  unfold setPoison
  cases p with
  | false => exact hr
  | true =>
    refine rising_three rfl (hr.sublist List.filter_sublist) (List.pairwise_singleton _ l) (hr.sublist List.filter_sublist)
      l (l + 1) ?_ ?_ ?_ (by omega)
    · exact fun x hx => of_decide_eq_true (List.mem_filter.1 hx).2
    · simp
    · exact fun x hx => of_decide_eq_true (List.mem_filter.1 hx).2

theorem Memory.merge_wf {m : Memory} (l : Nat) (d : LineVal) (k : ByteMask) (p : Bool) (h : m.wf = true) :
    (m.merge l d k p).wf = true := by
  unfold merge
  split
  · exact setPoison_wf _ _ (setLine_wf _ _ h)
  · dsimp only
    split
    · exact setPoison_wf _ _ (setLine_wf _ _ h)
    · exact setLine_wf _ _ h

theorem Memory.clear_wf {m : Memory} (lo hi : Nat) (h : m.wf = true) : (m.clear lo hi).wf = true := by
  obtain ⟨h1, h2, h3⟩ := m.wf_iff.1 h
  exact (wf_iff _).2 ⟨rising_filter _ h1, fun c hc => h2 c (List.mem_filter.1 hc).1, h3.sublist List.filter_sublist⟩

/-! ### Reading one byte -/

theorem find_key_filter {l : List Host.Cell} {p : Host.Cell → Bool} {a : Nat} (h : ∀ c, c.1 = a → p c = true) :
    (l.filter p).find? (fun c => c.1 == a) = l.find? (fun c => c.1 == a) := by
  induction l with
  | nil => rfl
  | cons c l ih =>
    by_cases hc : c.1 = a
    · simp [h c hc, hc]
    · by_cases hp : p c = true <;> simp [hp, hc, ih]

theorem find_key_none {l : List Host.Cell} {p : Host.Cell → Bool} {a : Nat} (h : ∀ c, c.1 = a → p c = false) :
    (l.filter p).find? (fun c => c.1 == a) = none := by
  simp only [List.find?_eq_none, List.mem_filter, beq_iff_eq]
  rintro c ⟨_, hc⟩ e
  rw [h c e] at hc
  cases hc

theorem find_key_line (l : Nat) (d : LineVal) {k : Nat} (hk : k < 128) :
    (lineCells l d).find? (fun c => c.1 == 128 * l + k) =
      if d.extractLsb' (8 * k) 8 = 0 then none else some (128 * l + k, d.extractLsb' (8 * k) 8) := by
  by_cases hz : d.extractLsb' (8 * k) 8 = 0
  · rw [if_pos hz, List.find?_eq_none]
    intro c hc
    obtain ⟨j, _, e1, e2, e3⟩ := mem_lineCells hc
    simp only [beq_iff_eq]
    intro e
    have : j = k := by omega
    subst this
    exact e3 (e2.trans hz)
  · rw [if_neg hz]
    have hm : (128 * l + k, d.extractLsb' (8 * k) 8) ∈ lineCells l d := by
      simp only [lineCells, List.mem_filterMap, List.mem_range]
      exact ⟨k, hk, if_neg hz⟩
    cases hf : (lineCells l d).find? (fun c => c.1 == 128 * l + k) with
    | none => exact absurd (List.find?_eq_none.1 hf _ hm) (by simp)
    | some c =>
      have h1 := List.find?_some hf
      obtain ⟨j, _, e1, e2, _⟩ := mem_lineCells (List.mem_of_find?_eq_some hf)
      simp only [beq_iff_eq] at h1
      have : j = k := by omega
      subst this
      rw [Option.some.injEq, Prod.ext_iff]
      exact ⟨h1, e2⟩

/-- A line that has been written reads as written, and every other byte as before. -/
theorem Memory.byte_setLine (m : Memory) (l : Nat) (d : LineVal) (a : Nat) :
    (m.setLine l d).byte a = if a / 128 = l then d.extractLsb' (8 * (a % 128)) 8 else m.byte a := by
  unfold Memory.byte setLine
  simp only [List.find?_append]
  by_cases h : a / 128 = l
  · have ha : a = 128 * l + a % 128 := by omega
    rw [if_pos h, find_key_none (fun c e => by simp only [decide_eq_false_iff_not, e]; omega),
      find_key_none (p := fun c => l < c.1 / 128) (fun c e => by simp only [decide_eq_false_iff_not, e]; omega)]
    have hf := find_key_line l d (k := a % 128) (by omega)
    rw [← ha] at hf
    rw [hf]
    by_cases hz : d.extractLsb' (8 * (a % 128)) 8 = 0
    · simp only [hz]; rfl
    · simp only [if_neg hz]; rfl
  · rw [if_neg h]
    have hl : (lineCells l d).find? (fun c => c.1 == a) = none := by
      rw [List.find?_eq_none]
      intro c hc e
      have := lineCells_line hc
      simp only [beq_iff_eq] at e
      omega
    rw [hl]
    rcases Nat.lt_or_gt_of_ne h with h | h
    · rw [find_key_filter (fun c e => by simp only [decide_eq_true_eq, e]; omega),
        find_key_none (p := fun c => l < c.1 / 128) (fun c e => by simp only [decide_eq_false_iff_not, e]; omega)]
      simp
    · rw [find_key_none (fun c e => by simp only [decide_eq_false_iff_not, e]; omega),
        find_key_filter (p := fun c => l < c.1 / 128) (fun c e => by simp only [decide_eq_true_eq, e]; omega)]
      simp

@[simp] theorem Memory.byte_setPoison (m : Memory) (l : Nat) (p : Bool) (a : Nat) : (m.setPoison l p).byte a = m.byte a := rfl

@[simp] theorem Memory.poisoned_setLine (m : Memory) (l : Nat) (d : LineVal) (k : Nat) :
    (m.setLine l d).poisoned k = m.poisoned k := rfl

theorem Memory.poisoned_setPoison (m : Memory) (l : Nat) (p : Bool) (k : Nat) :
    (m.setPoison l p).poisoned k = if k = l then p else m.poisoned k := by
  by_cases h : k = l
  · subst h
    cases p <;> simp [poisoned, setPoison]
  · cases p
    · simp [poisoned, setPoison, h]
    · have : (k < l) ∨ (l < k) := by omega
      simp only [poisoned, setPoison, h, if_false]
      rw [Bool.eq_iff_iff]
      simp only [if_true, List.contains_iff_mem, List.mem_append, List.mem_filter, List.mem_singleton, decide_eq_true_eq,
        bne_iff_ne, ne_eq]
      constructor
      · rintro ((hk | hk) | hk)
        · exact hk.1.1
        · exact absurd hk h
        · exact hk.1.1
      · intro hk
        rcases this with h1 | h1
        · exact .inl (.inl ⟨⟨hk, h⟩, h1⟩)
        · exact .inr ⟨⟨hk, h⟩, h1⟩

/-- A write of part of a line leaves every byte of every other line. -/
theorem Memory.byte_merge_out (m : Memory) (l : Nat) (d : LineVal) (k : ByteMask) (p : Bool) (a : Nat) (h : a / 128 ≠ l) :
    (m.merge l d k p).byte a = m.byte a := by
  unfold merge
  split
  · simp [byte_setLine, h]
  · dsimp only
    split <;> simp [byte_setLine, h]

/-- A range of lines that was cleared reads zero, and every other byte as before. -/
theorem Memory.byte_clear (m : Memory) (lo hi a : Nat) :
    (m.clear lo hi).byte a = if lo ≤ a / 128 ∧ a / 128 < hi then 0 else m.byte a := by
  unfold Memory.byte clear
  dsimp only
  by_cases h : lo ≤ a / 128 ∧ a / 128 < hi
  · rw [if_pos h, find_key_none fun c e => by simp only [e, Bool.or_eq_false_iff, decide_eq_false_iff_not]; omega]
  · rw [if_neg h, find_key_filter fun c e => by simp only [e, Bool.or_eq_true, decide_eq_true_eq]; omega]

end Sys2Proof.Machine
end

