-- ==== Sys2Proof/Tests/Slice0.lean ====
section
/-! SUPPORT. Tests: words of every form decoded as the encoding tables of the specification write them, the refusals of R190,
ill-formed terms, single steps on a small state, and for each statement a state and operands that meet its hypotheses. -/

namespace Sys2Proof.Tests

set_option Elab.async false

open Sys2Proof Sys2Proof.Machine Sys2Proof.Safety Sys2Proof.Claims

/-! ### Decoding -/

/-- The body `b` under a control field of zeros decodes to the instruction `i`. -/
def decodesTo (b : BitVec 64) (i : Instr) : Bool := decode (rawWord 0 b) == .ok { ctl := {}, body := .full i }

/-- The body `x` decodes to a pair. -/
def pairsTo (x : BitVec 64) (a b : Instr) : Bool := decode (rawWord 0 x) == .ok { ctl := {}, body := .pair a b }

/-- A word is refused with a source, kind and slot (R173, R189). -/
def refuses (c : BitVec 16) (b : BitVec 64) (source kind slot : Nat) : Bool :=
  decode (rawWord c b) == .illegal source kind slot

/-- Words written from the encoding tables (R182-R186 and the chapters' own): each decodes to the instruction that its fields name. -/
theorem test_decode_scalar : ([
    (0x0005187000000000, .add 5 6 7),
    (0x00051C8000000001, .sub 5 7 8),
    (0x0005209000000002, .mul 5 8 9),
    (0x000524A000000003, .mulh 5 9 10),
    (0x000528B000000004, .mulhu 5 10 11),
    (0x00052CC000000005, .div 5 11 12),
    (0x000530D000000006, .divu 5 12 13),
    (0x000534E000000007, .rem 5 13 14),
    (0x000538F000000008, .remu 5 14 15),
    (0x00053D0000000009, .and 5 15 16),
    (0x000541100000000A, .or 5 16 17),
    (0x000545200000000B, .xor 5 17 18),
    (0x000549300000000C, .shl 5 18 19),
    (0x00054D400000000D, .shr 5 19 20),
    (0x000551500000000E, .sar 5 20 21),
    (0x000555600000000F, .slt 5 21 22),
    (0x0005597000000010, .sltu 5 22 23),
    (0x00055D8000000011, .min 5 23 24),
    (0x0005619000000012, .max 5 24 25),
    (0x000565A000000013, .minu 5 25 26),
    (0x000569B000000014, .maxu 5 26 27),
    (0x003F540000000015, .clz 63 21),
    (0x003F580000000016, .ctz 63 22),
    (0x003F5C0000000017, .popc 63 23),
    (0x003F600000000018, .mov 63 24),
    (0x0001083100000019, .sel 1 2 3 4)] : List (BitVec 64 × Instr)).all (fun p => decodesTo p.1 p.2) = true := by decide +kernel

/-- Words written from the encoding tables (R182-R186 and the chapters' own): each decodes to the instruction that its fields name. -/
theorem test_decode_scalar_immediate : ([
    (0x01092800FFFFFFFF, .addi 9 10 (-1)),
    (0x01092801FFFFFFFE, .andi 9 10 (-2)),
    (0x01092802FFFFFFFD, .ori 9 10 (-3)),
    (0x01092803FFFFFFFC, .xori 9 10 (-4)),
    (0x01092807FFFFFFF8, .slti 9 10 (-8)),
    (0x010928040000003B, .shli 9 10 59),
    (0x010928050000003C, .shri 9 10 60),
    (0x010928060000003D, .sari 9 10 61),
    (0x0109280800000040, .sext 9 10 64),
    (0x0109280900000001, .zext 9 10 1),
    (0x0109280A000000C7, .bfx 9 10 7 3),
    (0x0109280B0000007F, .bfi 9 10 63 1),
    (0x0109000C00006F70, .li 9 0x6F70),
    (0x0109000D00123450, .liHi 9 0x123450)] : List (BitVec 64 × Instr)).all (fun p => decodesTo p.1 p.2) = true := by decide +kernel

/-- Words written from the encoding tables (R182-R186 and the chapters' own): each decodes to the instruction that its fields name. -/
theorem test_decode_scalar_float : ([
    (0x0204146000000000, .fadd 4 5 6 .rne),
    (0x0204146000800001, .fsub 4 5 6 .rtz),
    (0x0204146001000002, .fmul 4 5 6 .rup),
    (0x0204146001800003, .fdiv 4 5 6 .rdn),
    (0x0204140002000004, .fsqrt 4 5 .rmm),
    (0x02041461C3800005, .ffma 4 5 6 7 .dyn),
    (0x0206515000000006, .fmin 6 20 21),
    (0x0207515000000007, .fmax 7 20 21),
    (0x0208515000000008, .fcmpEq 8 20 21),
    (0x0209515000000009, .fcmpLt 9 20 21),
    (0x020A51500000000A, .fcmpLe 10 20 21),
    (0x020B51500000000B, .fcmpUo 11 20 21),
    (0x020C50000000000C, .fclass 12 20),
    (0x020D50000000000D, .fneg 13 20),
    (0x020E50000000000E, .fabs 14 20),
    (0x0210500003800010, .fcvtI32F32 16 20 .dyn),
    (0x0211500003800011, .fcvtN32F32 17 20 .dyn),
    (0x0212500003800012, .fcvtI64F32 18 20 .dyn),
    (0x0213500003800013, .fcvtF32I32 19 20 .dyn),
    (0x0214500003800014, .fcvtF32N32 20 20 .dyn),
    (0x0215500003800015, .fcvtF32I64 21 20 .dyn)] : List (BitVec 64 × Instr)).all (fun p => decodesTo p.1 p.2) = true := by decide +kernel

/-- Words written from the encoding tables (R182-R186 and the chapters' own): each decodes to the instruction that its fields name. -/
theorem test_decode_control : ([
    (0x040079F000000000, .beq 30 31 (0)),
    (0x040079F1FFFFFFFF, .bne 30 31 (-1)),
    (0x040079F2FFFFFFFE, .blt 30 31 (-2)),
    (0x040079F3FFFFFFFD, .bge 30 31 (-3)),
    (0x040079F4FFFFFFFC, .bltu 30 31 (-4)),
    (0x040079F5FFFFFFFB, .bgeu 30 31 (-5)),
    (0x044000000000000C, .jmp 12),
    (0x04410001FFFFFFFE, .jal 1 (-2)),
    (0x0440040200000000, .ret 1),
    (0x04800000FFFFFFFD, .loop (-3)),
    (0x0480080100000008, .loopInit 2 8),
    (0x0480000200000000, .yield),
    (0x060A2C0000000004, .setvl 10 11 4),
    (0x0603000100000026, .vclaim 3 6 2),
    (0x0603000200000120, .vcfg 3 2 true false)] : List (BitVec 64 × Instr)).all (fun p => decodesTo p.1 p.2) = true := by decide +kernel

/-- Words written from the encoding tables (R182-R186 and the chapters' own): each decodes to the instruction that its fields name. -/
theorem test_decode_vector_integer : ([
    (0x0808528000000000, .vadd { rd := 8, rs1 := 20, rs2 := 40 }),
    (0x0809568004408400, .vsub { rd := 9, rs1 := 21, rs2 := 40, vm := 1, mp := true, ty := .i4 }),
    (0x080A5A8008210800, .vmul { rd := 10, rs1 := 22, rs2 := 40, vm := 2, tp := true, ty := .i8 }),
    (0x080B5E800C618C10, .vmulh { rd := 11, rs1 := 23, rs2 := 40, vm := 3, mp := true, tp := true, ty := .i16, s := true }),
    (0x080C628010021010, .vmin { rd := 12, rs1 := 24, rs2 := 40, vm := 4, ty := .i32, s := true }),
    (0x080D668014429410, .vmax { rd := 13, rs1 := 25, rs2 := 40, vm := 5, mp := true, ty := .i64, s := true }),
    (0x080E6A8018231800, .vand { rd := 14, rs1 := 26, rs2 := 40, vm := 6, tp := true, ty := .n8 }),
    (0x080F6E801C639C00, .vor { rd := 15, rs1 := 27, rs2 := 40, vm := 7, mp := true, tp := true, ty := .n16 }),
    (0x0810728020042000, .vxor { rd := 16, rs1 := 28, rs2 := 40, vm := 8, ty := .n32 }),
    (0x0811768024448810, .vshl { rd := 17, rs1 := 29, rs2 := 40, vm := 9, mp := true, ty := .i8, s := true }),
    (0x08127A8028250C10, .vshr { rd := 18, rs1 := 30, rs2 := 40, vm := 10, tp := true, ty := .i16, s := true }),
    (0x08137E802C659010, .vsar { rd := 19, rs1 := 31, rs2 := 40, vm := 11, mp := true, tp := true, ty := .i32, s := true }),
    (0x0803105000061002, .vcmp .lt { rd := 3, rs1 := 4, rs2 := 5, ty := .i32 }),
    (0x080310501C269400, .vsel { rd := 3, rs1 := 4, rs2 := 5, vm := 7, tp := true, ty := .i64 }),
    (0x080828B000070C00, .vwadd { rd := 8, rs1 := 10, rs2 := 11, ty := .i16 }),
    (0x080828B000079810, .vwmul { rd := 8, rs1 := 10, rs2 := 11, ty := .n8, s := true }),
    (0x0803180000080860, .vnarrow { rd := 3, rs1 := 6, ty := .i8, ty2 := .i16 }),
    (0x0803187000489800, .vdot4 { rd := 3, rs1 := 6, rs2 := 7, mp := true, ty := .n8 })] : List (BitVec 64 × Instr)).all (fun p => decodesTo p.1 p.2) = true := by decide +kernel

/-- Words written from the encoding tables (R182-R186 and the chapters' own): each decodes to the instruction that its fields name. -/
theorem test_decode_vector_float : ([
    (0x0901083000003800, .vfadd { rd := 1, rs1 := 2, rs2 := 3, ty := .f32 }),
    (0x090108300080B010, .vfsub { rd := 1, rs1 := 2, rs2 := 3, rm := .rtz, ty := .f16, s := true }),
    (0x0901083001813400, .vfmul { rd := 1, rs1 := 2, rs2 := 3, rm := .rdn, ty := .bf16 }),
    (0x0928A47A0381B800, .vfma { rd := 40, rs1 := 41, rs2 := 7, rs3 := 40, rm := .dyn, ty := .f32 }),
    (0x090B2892CB823000, .vfnma { rd := 11, rs1 := 10, rs2 := 9, rs3 := 11, vm := 2, rm := .dyn, ty := .f16 }),
    (0x090108300102B800, .vfdiv { rd := 1, rs1 := 2, rs2 := 3, rm := .rup, ty := .f32 }),
    (0x0901080002033400, .vfsqrt { rd := 1, rs1 := 2, rm := .rmm, ty := .bf16 }),
    (0x090108300003B810, .vfmin { rd := 1, rs1 := 2, rs2 := 3, ty := .f32, s := true }),
    (0x0901083000043000, .vfmax { rd := 1, rs1 := 2, rs2 := 3, ty := .f16 }),
    (0x090F08300004B806, .vfcmp .uo { rd := 15, rs1 := 2, rs2 := 3, ty := .f32 }),
    (0x090A080000453800, .vfabs { rd := 10, rs1 := 2, mp := true, ty := .f32 }),
    (0x090B08000045B800, .vfneg { rd := 11, rs1 := 2, mp := true, ty := .f32 }),
    (0x090C080000463800, .vfexpo { rd := 12, rs1 := 2, mp := true, ty := .f32 }),
    (0x09030C900386B810, .vfscale { rd := 3, rs1 := 3, rs2 := 9, rm := .dyn, ty := .f32, s := true }),
    (0x0909200008073800, .vrsqrte { rd := 9, rs1 := 8, vm := 2, ty := .f32 }),
    (0x090920000807B800, .vrcpe { rd := 9, rs1 := 8, vm := 2, ty := .f32 }),
    (0x0909200008083800, .vexp2e { rd := 9, rs1 := 8, vm := 2, ty := .f32 }),
    (0x090920000808B800, .vlog2e { rd := 9, rs1 := 8, vm := 2, ty := .f32 }),
    (0x0A021000038035C0, .vcvt { rd := 2, rs1 := 4, rm := .dyn, ty := .bf16, ty2 := .f32 }),
    (0x0A0210000000C1C0, .vcvtSr { rd := 2, rs1 := 4, ty := .e4m3, ty2 := .f32 }),
    (0x0A021000000141C0, .vmxscale { rd := 2, rs1 := 4, ty := .e4m3, ty2 := .f32 }),
    (0x0A0840400001C1C1, .vmxq true { rd := 8, rs1 := 16, rs2 := 4, ty := .e4m3, ty2 := .f32 }),
    (0x0A08404000023A00, .vmxdq { rd := 8, rs1 := 16, rs2 := 4, ty := .f32, ty2 := .e4m3 })] : List (BitVec 64 × Instr)).all (fun p => decodesTo p.1 p.2) = true := by decide +kernel

/-- Words written from the encoding tables (R182-R186 and the chapters' own): each decodes to the instruction that its fields name. -/
theorem test_decode_vector_reduce_permute_mask : ([
    (0x0B020C4004000C00, .vredsum { rd := 2, rs1 := 3, rs2 := 4, vm := 1, ty := .i16 }),
    (0x0B020C400780B800, .vfredsum { rd := 2, rs1 := 3, rs2 := 4, vm := 1, rm := .dyn, ty := .f32 }),
    (0x0B020C4004010C00, .vredmin { rd := 2, rs1 := 3, rs2 := 4, vm := 1, ty := .i16 }),
    (0x0B020C4004018C00, .vredmax { rd := 2, rs1 := 3, rs2 := 4, vm := 1, ty := .i16 }),
    (0x0B020C4004023800, .vfredmin { rd := 2, rs1 := 3, rs2 := 4, vm := 1, ty := .f32 }),
    (0x0B020C400402B800, .vfredmax { rd := 2, rs1 := 3, rs2 := 4, vm := 1, ty := .f32 }),
    (0x0B020C0000032000, .vscan .add { rd := 2, rs1 := 3, ty := .n32 }),
    (0x0B020C0000032001, .vscan .min { rd := 2, rs1 := 3, ty := .n32 }),
    (0x0B020C0000032002, .vscan .max { rd := 2, rs1 := 3, ty := .n32 }),
    (0x0B020C0001033803, .vscan .fadd { rd := 2, rs1 := 3, rm := .rup, ty := .f32 }),
    (0x0C020C0B00000400, .vslideup { rd := 2, rs1 := 3, rs3 := 44, ty := .i4 }),
    (0x0C020C0B00008800, .vslidedn { rd := 2, rs1 := 3, rs3 := 44, ty := .i8 }),
    (0x0C020EC000010C00, .vperm { rd := 2, rs1 := 3, rs2 := 44, ty := .i16 }),
    (0x0C020C0010019000, .vcompress { rd := 2, rs1 := 3, vm := 4, ty := .i32 }),
    (0x0C020C0010421000, .vexpand { rd := 2, rs1 := 3, vm := 4, mp := true, ty := .i32 }),
    (0x0C02000100029400, .vbcast { rd := 2, rs3 := 4, ty := .i64 }),
    (0x0C020C0100031000, .vextS { rd := 2, rs1 := 3, rs3 := 4, ty := .i32 }),
    (0x0C020C0100038000, .vinsS { rd := 2, rs1 := 3, rs3 := 4 }),
    (0x0D01083000000000, .mand { rd := 1, rs1 := 2, rs2 := 3 }),
    (0x0D0F38D000208000, .mor { rd := 15, rs1 := 14, rs2 := 13, tp := true }),
    (0x0D01083000010000, .mxor { rd := 1, rs1 := 2, rs2 := 3 }),
    (0x0D01080000018000, .mnot { rd := 1, rs1 := 2 }),
    (0x0D3C08000C020000, .mpopc { rd := 60, rs1 := 2, vm := 3 }),
    (0x0D3C08000C028000, .mfirst { rd := 60, rs1 := 2, vm := 3 })] : List (BitVec 64 × Instr)).all (fun p => decodesTo p.1 p.2) = true := by decide +kernel

/-- Words written from the encoding tables (R182-R186 and the chapters' own): each decodes to the instruction that its fields name. -/
theorem test_decode_matrix : ([
    (0x1800580000004220, .mshape { rs1 := 22, ty := .e4m3, ty2 := .e5m2 }),
    (0x1807000000008000, .mzero { rd := 7 }),
    (0x1802509000010001, .mpm true false { rd := 2, rs1 := 20, rs2 := 9 }),
    (0x1801017000010002, .mpm false true { rd := 1, rs2 := 23 }),
    (0x180320901401B400, .mopa { rd := 3, rs1 := 8, rs2 := 9, vm := 5, ty := .bf16 }),
    (0x1800209280020000, .mfetch { rs1 := 8, rs2 := 9, rs3 := 10 }),
    (0x180109558002D400, .mscacc { rd := 1, rs1 := 2, rs2 := 21, rs3 := 22, ty := .e8m0 }),
    (0x1808040003831080, .mext { rd := 8, rs1 := 1, rm := .dyn, ty := .i32, ty2 := .i32 }),
    (0x180F1C0000030081, .mextFlags { rd := 15, rs1 := 7, ty2 := .i32 }),
    (0x180720900003B9A0, .mins { rd := 7, rs1 := 8, rs2 := 9, ty := .f32, ty2 := .bf16 }),
    (0x1801209000040000, .mld { rd := 1, rs1 := 8, rs2 := 9 }),
    (0x1801209000048000, .mst { rd := 1, rs1 := 8, rs2 := 9 })] : List (BitVec 64 × Instr)).all (fun p => decodesTo p.1 p.2) = true := by decide +kernel

/-- Words written from the encoding tables (R182-R186 and the chapters' own): each decodes to the instruction that its fields name. -/
theorem test_decode_memory : ([
    (0x1005480000000058, .ld 5 18 .b .plain .h (88)),
    (0x1005480158000026, .ld 5 18 .h .acq .v (38)),
    (0x10054802007FFFF4, .ld 5 18 .w .plain .h (-12)),
    (0x10054803587FFFC2, .ld 5 18 .d .acq .v (-62)),
    (0x10054804007FFF90, .ld 5 18 .bu .plain .h (-112)),
    (0x10054805587FFF5E, .ld 5 18 .hu .acq .v (-162)),
    (0x10054806007FFF2C, .ld 5 18 .wu .plain .h (-212)),
    (0x1040246088000000, .st 9 6 .b .rel .c 0),
    (0x1040246100000200, .st 9 6 .h .plain .h 512),
    (0x10402462A0000400, .st 9 6 .w .rel .s 1024),
    (0x1040246300000600, .st 9 6 .d .plain .h 1536),
    (0x1103209000000004, .qset 3 8 9 .w false .h),
    (0x110F209000000049, .qset 15 8 9 .x4 true .s),
    (0x1103200100000000, .qstr 3 8),
    (0x11080C0200000000, .qlen 8 3),
    (0x11080C0300000002, .qinfo 8 3 2),
    (0x12211C0004800000, .vld { rd := 33, rs1 := 7, w := .x2, vm := 9 }),
    (0x12611C0104800000, .vldff { rd := 33, rs1 := 7, w := .x4, vm := 9 }),
    (0x12A11C0204800000, .vst { rd := 33, rs1 := 7, w := .b, vm := 9 }),
    (0x12E11E2354FFFFF8, .vldx { rd := 33, rs1 := 7, rs2 := 34, w := .h, ord := .acq, sc := .d, vm := 9, disp := -8 }),
    (0x13211E25A4FFFFF8, .vstx { rd := 33, rs1 := 7, rs2 := 34, w := .d, ord := .rel, sc := .s, vm := 9, disp := -8 }),
    (0x1405246000000006, .amoAdd { rd := 5, rs1 := 9, rs2 := 6, dbl := false, ord := .plain, sc := .h, disp := 6 }),
    (0x1445246148000005, .amoAnd { rd := 5, rs1 := 9, rs2 := 6, dbl := true, ord := .acq, sc := .c, disp := 5 }),
    (0x1405246290000004, .amoOr { rd := 5, rs1 := 9, rs2 := 6, dbl := false, ord := .rel, sc := .d, disp := 4 }),
    (0x14452463D8000003, .amoXor { rd := 5, rs1 := 9, rs2 := 6, dbl := true, ord := .ar, sc := .v, disp := 3 }),
    (0x1405246420000002, .amoMin { rd := 5, rs1 := 9, rs2 := 6, dbl := false, ord := .plain, sc := .s, disp := 2 }),
    (0x1445246540000001, .amoMax { rd := 5, rs1 := 9, rs2 := 6, dbl := true, ord := .acq, sc := .h, disp := 1 }),
    (0x1405246688000000, .amoSwap { rd := 5, rs1 := 9, rs2 := 6, dbl := false, ord := .rel, sc := .c, disp := 0 }),
    (0x14852463D817FFFC, .amocas 5 9 6 11 true .ar .v (-4)),
    (0x14C5246208000004, .famoAdd 5 9 6 .plain .c 4),
    (0x1500000018000000, .fence .v),
    (0x1500000100000000, .fenceB),
    (0x1580699000000000, .clnR 26 25),
    (0x1580699100000000, .invR 26 25),
    (0x1580699200000000, .cinvR 26 25),
    (0x1580699300000000, .discR 26 25)] : List (BitVec 64 × Instr)).all (fun p => decodesTo p.1 p.2) = true := by decide +kernel

/-- Words written from the encoding tables (R182-R186 and the chapters' own): each decodes to the instruction that its fields name. -/
theorem test_decode_history_pool_tile_bank : ([
    (0x1600044000000000, .happ 1 4),
    (0x1618049100000021, .hld 24 1 9 1 2),
    (0x1604049200000001, .hldv 4 1 9 1),
    (0x1607040300000053, .hstat 7 1 3 5),
    (0x1709040000000000, .kvapp 9 1),
    (0x1709040100000000, .poolPop 9 1),
    (0x1700049200000000, .poolPush 1 9),
    (0x1A00015000000328, .proof 40 3 21),
    (0x1A0000010000007F, .unproof 127),
    (0x1A00000200020714, .ownGive 20 7 2),
    (0x1A00000300000714, .ownTake 20 7),
    (0x1A05000400000014, .ownTest 5 20),
    (0x1A00209501FF0014, .sld 20 511 8 9),
    (0x1A00209600010014, .sst 20 1 8 9),
    (0x1A00200700000000, .cpy 8),
    (0x1A00200800000000, .enq 8),
    (0x1A03200900000001, .enqb 3 8 1),
    (0x1A00000A00000000, .nodeDone),
    (0x1A00000B00000014, .rallyRun 20),
    (0x1A05000C00000014, .rallyStat 5 20),
    (0x1C00200000000000, .bcmd 8),
    (0x1C04206100000103, .bgath 4 8 6 1 3),
    (0x1C04206200000F08, .bscadd 4 8 6 15 8)] : List (BitVec 64 × Instr)).all (fun p => decodesTo p.1 p.2) = true := by decide +kernel

/-- Words written from the encoding tables (R182-R186 and the chapters' own): each decodes to the instruction that its fields name. -/
theorem test_decode_system : ([
    (0x3A07000000000002, .barArr 7 2),
    (0x3A001C0100000006, .barWait 7 6),
    (0x3A00000200000002, .barSync 2),
    (0x3A07200300000000, .wfe 7 8),
    (0x3C000000FFFFFFFF, .trap 0xFFFFFFFF),
    (0x3C00000100000000, .eret),
    (0x3C00000200000009, .svc 9),
    (0x3C00000300000007, .brk 7),
    (0x3C17000400000007, .ctlRd 23 7),
    (0x3C0020050000000D, .ctlWr 13 8),
    (0x3C00200600000010, .ctlSet 16 8),
    (0x3C0020070000001C, .ctlClr 28 8),
    (0x3C000C0800000000, .ctxResume 3),
    (0x3C000C0800000001, .ctxResumeRetire 3),
    (0x3C000C4900000002, .pteInv 3 4 2),
    (0x3C000C0A00000000, .hcfgRegister 3),
    (0x3C000C0A00000001, .hcfgRestart 3),
    (0x3C000C0A00000002, .hcfgRetire 3)] : List (BitVec 64 × Instr)).all (fun p => decodesTo p.1 p.2) = true := by decide +kernel

/-- Slots of form P, each beside `li s0, 0` (R163, R187). -/
theorem test_decode_slots : ([
    (0x400828C709000000, .pairScalarRR 14 4 5 6),
    (0x409257FF89000000, .pairAddi 9 10 (-1)),
    (0x411257FF09000000, .pairAndi 9 10 (-2)),
    (0x419257FE89000000, .pairOri 9 10 (-3)),
    (0x421257FE09000000, .pairXori 9 10 (-4)),
    (0x4292501E89000000, .pairShli 9 10 61),
    (0x4312501F09000000, .pairShri 9 10 62),
    (0x4392501F89000000, .pairSari 9 10 63),
    (0x441253FF89000000, .pairSlti 9 10 2047),
    (0x4492040009000000, .pairLi 9 (-2048)),
    (0x4812500009000000, .pairLd .b 9 10 (0)),
    (0x489257FF89000000, .pairLd .h 9 10 (-1)),
    (0x491257FF09000000, .pairLd .w 9 10 (-2)),
    (0x499257FE89000000, .pairLd .d 9 10 (-3)),
    (0x4A1257FE09000000, .pairLd .bu 9 10 (-4)),
    (0x4A9257FD89000000, .pairLd .hu 9 10 (-5)),
    (0x4B1257FD09000000, .pairLd .wu 9 10 (-6)),
    (0x4C12500009000000, .pairSt .b 9 10 0),
    (0x4C92500089000000, .pairSt .h 9 10 1),
    (0x4D12500109000000, .pairSt .w 9 10 2),
    (0x4D92500189000000, .pairSt .d 9 10 3),
    (0x5012516389000000, .pairFpRR 7 9 10 11),
    (0x587E516589000000, .pairVectorRR 11 63 10 11)] : List (BitVec 64 × Instr)).all (fun p => pairsTo p.1 p.2 (.pairLi 0 0)) = true := by decide +kernel

/-- The table of R190, and the forms, hints and opcodes that stand for nothing (R160, R165): the first failing check of each word. -/
theorem test_refuse_words :
    (refuses 0 0xC000000000000000 0 0 0 && refuses 0 0x8000000000000000 0 0 0 && refuses 3 0x0005187000000000 0 0 0 &&
     refuses 0 0x0040000000000000 0 0 0 && refuses 0 0x0901083002803800 1 0 0 && refuses 0 0x1221440000000000 2 0 0 &&
     refuses 0 0x1802509000015801 3 0 0 && refuses 0x0600 0x0808528000000000 0 0 0 && refuses 0 0x1A00000D00000000 4 0 0 &&
     refuses 0 0x58021060300420C0 0 1 0 && refuses 0 0x3C000C0A00010000 0 0 0) = true := by decide +kernel

/-! ### Well-formed terms -/

/-- A term that no check refuses. -/
def good : TR := { rd := 2, rs1 := 4, rs2 := 6, ty := .i32 }

/-- One ill-formed term for each check on scalar and system instructions. -/
theorem test_ill_formed_scalar : ([.sext 1 2 0, .zext 1 2 65, .bfx 1 2 0 0, .bfi 1 2 60 5, .pairScalarRR 5 1 2 3,
    .pairScalarRR 21 1 2 3, .pairFpRR 3 1 2 3, .pairFpRR 13 1 2 3, .pairVectorRR 12 1 2 3, .loopInit 1 0, .loopInit 1 9,
    .setvl 1 2 6, .vclaim 1 7 0, .vclaim 1 2 3, .vclaim 1 2 0, .vcfg 1 6 false false, .hstat 1 2 0 1, .enqb 16 1 0,
    .bgath 1 2 3 0 9, .ctlRd 1 29, .ctlWr 9 1, .ctlSet 18 1, .ctlClr 29 1] : List Instr).all (fun i => !i.wellFormed) = true := by
  decide +kernel

/-- One ill-formed term for each check on vector instructions: types, unused fields, groups, mask destinations, policies. -/
theorem test_ill_formed_vector : ([.vadd { good with ty := .f32 }, .vadd { good with rs3 := 1 }, .vadd { good with ty2 := .i8 },
    .vadd { good with rm := .rtz }, .vcmp .uo { good with rd := 1 }, .vcmp .eq { good with rd := 16 },
    .vsel { good with mp := true }, .vsel { good with s := true }, .vwadd { good with ty := .i64 }, .vwadd { good with rd := 3 },
    .vwmul { good with rd := 2, rs1 := 3 }, .vwmul { good with rd := 2, rs2 := 3 }, .vnarrow { good with rs2 := 0, ty := .i16, ty2 := .i16 },
    .vnarrow { good with rs1 := 5, rs2 := 0, ty := .i16, ty2 := .i32 }, .vdot4 good, .vfadd good, .vfma { good with ty := .f32, s := true },
    .vfsqrt { good with ty := .f32 }, .vfmin { good with ty := .f32, rm := .rtz }, .vfcmp .eq { good with rd := 16, ty := .f32 },
    .vrsqrte { good with rs2 := 0, ty := .f16 }, .vcvt { good with rs2 := 0, ty := .f32, ty2 := .f32 },
    .vcvt { good with rd := 3, rs2 := 0, ty := .f32, ty2 := .f16 }, .vcvtSr { good with rs2 := 0, ty := .f32, ty2 := .f32 },
    .vmxscale { good with rs2 := 0, ty := .i16, ty2 := .f32 }, .vmxq false { good with rs1 := 5, ty := .e4m3, ty2 := .f32 },
    .vmxdq { good with ty := .i32, ty2 := .e4m3 }, .vredsum { good with mp := true }, .vfredsum good,
    .vscan .add { good with rs2 := 0, ty := .f32 }, .vperm { good with ty := .n32 }, .vcompress { good with rs2 := 0, mp := true },
    .vbcast { good with rs2 := 0 }, .vinsS { good with rs2 := 0, vm := 1 }, .mand { good with ty := .i8 },
    .mand { good with ty := .i2, rs1 := 16 }, .mnot { good with ty := .i2 }, .mpopc { good with ty := .i2, rs2 := 0, tp := true },
    .mfirst { good with ty := .i2, rs1 := 16, rs2 := 0 }] : List Instr).all (fun i => !i.wellFormed) = true := by
  decide +kernel

/-- One ill-formed term for each check on matrix and memory instructions. -/
theorem test_ill_formed_memory : ([.mshape { rs1 := 1, ty := .bf16, ty2 := .f16 }, .mshape { rd := 1, rs1 := 1, ty := .i8, ty2 := .i8 },
    .mzero { rd := 8 }, .mzero { rs1 := 1 }, .mpm false false { rd := 8 }, .mpm false true { rd := 1, rs1 := 2 }, .mpm false false { ty := .i8 },
    .mopa { ty := .i16 }, .mopa { ty := .i8, mp := true }, .mfetch { rd := 1 }, .mscacc { ty := .f32 }, .mscacc { ty := .e8m0, rs1 := 8 },
    .mext { ty := .i8, ty2 := .f32 }, .mext { rs1 := 8, ty := .f32, ty2 := .f32 }, .mextFlags { rd := 16, ty2 := .i32 },
    .mins { ty := .f32, ty2 := .i8 }, .mld { rd := 8 }, .mst { rs3 := 1 }, .ld 1 2 .w .rel .v 0, .ld 1 2 .w .plain .c 0,
    .st 1 2 .w .acq .v 0, .qset 16 1 2 .w false .h, .qset 1 1 2 .w false .c, .qstr 16 1, .qlen 1 16, .qinfo 1 16 0,
    .vld { rs1 := 16 }, .vld { ord := .rel, sc := .v }, .vldff { ord := .acq, sc := .v }, .vst { rs2 := 1 }, .vst { disp := 4 },
    .vldx { w := .x4 }, .vldx { w := .b, rs2 := 2 }, .vstx { w := .h, rs2 := 1 }, .vstx { ord := .acq, sc := .c }] : List Instr).all
      (fun i => !i.wellFormed) = true := by decide +kernel

/-- Words that are refused as words: a slot form alone, a full form in a pair, a tag on a fixed latency, the reserved hint, and each
rule of pairing (R164): three reads of one bank, two writes of one bank, two memory slots and two vector slots. -/
theorem test_ill_formed_word : ([
    IWord.mk {} (.full (.pairAddi 1 2 3)), IWord.mk {} (.pair (.add 1 2 3) (.pairAddi 1 2 3)), IWord.mk { sa := 1 } (.full (.add 1 2 3)),
    IWord.mk { hint := 3 } (.full (.add 1 2 3)), IWord.mk {} (.pair (.pairScalarRR 0 1 4 8) (.pairAddi 2 12 0)),
    IWord.mk {} (.pair (.pairAddi 1 2 0) (.pairAddi 5 3 0)), IWord.mk {} (.pair (.pairLd .d 1 2 0) (.pairSt .d 3 4 0)),
    IWord.mk {} (.pair (.pairVectorRR 0 1 2 3) (.pairVectorRR 1 2 3 4))] : List IWord).all (fun w => !w.wellFormed) = true := by
  decide +kernel

/-! ### A small state -/

/-- Reset, with a context in supervisor mode on hart 0 of cluster 0 and one page of code at 0x1_0000, writeable and cacheable (log 4). -/
def base : State := State.reset.withFetchWord 80 0

/-- The base state with a change of its context. -/
def on (f : Ctx → Ctx) : State := base.mapCur f

/-- Scalar register `n` holds `x`. -/
def reg (n : Nat) (x : Word) (c : Ctx) : Ctx := { c with s := c.s.setIfInBounds n x }

/-- Control register `n` holds `x`. -/
def ctl (n : Nat) (x : Word) (c : Ctx) : Ctx := { c with creg := c.creg.setIfInBounds n x }

/-- A tag (R165). -/
def tagged (n : BitVec 3) (c : Ctx) : Ctx := { c with ctl := { c.ctl with sa := n } }

/-- Frame `f` of partition 0 as page `p` of its address space, with the attribute bits `bits`. -/
def page (p f bits : Nat) (s : State) : State :=
  State.plant { s with fot := s.fot ++ [(frameIndex f, 0x80)] } (0x40000 + 8 * p) 8 (65536 * f + bits)

/-- The result of an access that succeeds has a property. -/
def okWith {ε α : Type} (e : Except ε α) (p : α → Bool) : Bool :=
  match e with
  | .ok x => p x
  | .error _ => false

/-- The result that is present has a property. -/
def someWith {α : Type} (e : Option α) (p : α → Bool) : Bool :=
  match e with
  | some x => p x
  | none => false

/-- The state that an instruction leaves has a property. -/
def nextWith (o : Out) (p : State → Bool) : Bool :=
  match o with
  | .next t => p t
  | _ => false

/-- The registers of a context carry no mark. -/
def clean (c : Ctx) : Bool := c.ps == 0 && c.pv == Vector.replicate 64 0 && c.pm == Vector.replicate 16 0

/-- A context whose mark registers are as at reset is unmarked. -/
theorem unmarked_of_clean {c : Ctx} (h : clean c = true) : Unmarked c := by
  simp only [clean, Bool.and_eq_true, beq_iff_eq] at h
  obtain ⟨⟨h1, h2⟩, h3⟩ := h
  refine ⟨h1, fun n => ?_, fun n => ?_⟩
  · rw [h2]; by_cases h : n < 64 <;> simp [Vector.getD, h]
  · rw [h3]; by_cases h : n < 16 <;> simp [Vector.getD, h]

/-- The base state, with one lane, and `n` as vl. -/
def vec (n : Nat) : State := on (ctl 0 (BitVec.ofNat 64 n))

/-! ### States that meet the hypotheses -/

/-- The operands of the scalar statements (ScalarRegisterResults, DivisionResults, ScalarImmediateResults, ScalarFloatResults,
ScalarFloatOtherResults, and the loads' and stores' own), as register operands and as FP32 ones. -/
theorem witness_scalar_operands :
    base.badS false [2, 3] = false ∧ base.badS false [2] = false ∧ base.badS false [2, 3, 4] = false ∧
    base.badS true [2, 3] = false ∧ base.badS true [2] = false ∧ base.badS true [2, 3, 4] = false ∧
    base.badS false [0, 63] = false := by decide +kernel

/-- The limits of ScalarImmediateResults at both ends of their ranges. -/
theorem witness_scalar_immediates :
    (1 ≤ (1 : BitVec 7).toNat ∧ (1 : BitVec 7).toNat ≤ 64) ∧ (1 ≤ (64 : BitVec 7).toNat ∧ (64 : BitVec 7).toNat ≤ 64) ∧
    (1 ≤ (64 : BitVec 7).toNat ∧ (0 : BitVec 6).toNat + (64 : BitVec 7).toNat ≤ 64) ∧
    (1 ≤ (1 : BitVec 7).toNat ∧ (63 : BitVec 6).toNat + (1 : BitVec 7).toNat ≤ 64) := by decide +kernel

/-- PairSlotResults: the functions at the ends of each range, and unmarked registers for the vector slots. -/
theorem witness_pair_slots :
    base.badS false [4, 5] = false ∧ ((0 : Reg).toNat < 25 ∧ ¬(5 ≤ (0 : Reg).toNat ∧ (0 : Reg).toNat ≤ 8)) ∧
    ((24 : Reg).toNat < 25 ∧ ¬(5 ≤ (24 : Reg).toNat ∧ (24 : Reg).toNat ≤ 8)) ∧ (14 : Reg).toNat ∈ [0, 1, 2, 6, 7, 13, 14] ∧
    (11 : Reg).toNat < 12 ∧ Unmarked base.cur :=
  ⟨by decide +kernel, by decide +kernel, by decide +kernel, by decide +kernel, by decide +kernel, unmarked_of_clean (by decide +kernel)⟩

/-- BranchesAndJumps and LoopInstructions. -/
theorem witness_branches : base.cur.views = none ∧ base.cur.rpt = false ∧ base.badS false [2, 3] = false ∧
    base.badS false [2] = false := by decide +kernel

/-- RotatingNames at the last name, for a word at its first issue and for one that runs again with PASS = 5. -/
theorem witness_rotating : (31 : Nat) < 32 ∧ base.cur.vslot 31 = 31 ∧ base.cur.redo = none ∧
    (let c := { base.cur with redo := some { pass := 5, reset := false } }
     c.redo = some { pass := 5, reset := false } ∧ c.vslot 63 = 58) := by decide +kernel

/-- The base state with a second page of data: frame 6 at 0x2_0000, not cached (CA = 10). -/
def data : State := page 2 6 0x81F base

/-- A load of `n` bytes at `addr` finds its place and reads no poison. -/
def loads (s : State) (addr n : Nat) : Bool :=
  okWith (s.locateAll true .read (pieces addr n)) fun ps =>
    ((s.useAll .read ps |>.freshenAll .h ps).readPieces s.cur.cluster s.cur.hart false ps).1.2 == none

/-- ScalarLoads: a word in the page of code, one that crosses into the next page. -/
theorem witness_loads : data.badS false [2] = false ∧ loads data 0x10008 4 = true ∧ loads data 0x1FFFC 8 = true := by
  decide +kernel

/-- A store of `n` bytes at `addr` finds one place, in a page of cacheability `ca`. -/
def stores (s : State) (addr n ca : Nat) : Bool :=
  okWith (s.locateAll true .write (pieces addr n)) fun ps =>
    match ps with
    | [(_, _, .page l pa)] => l.ca == ca && (region pa == .fast || region pa == .cap)
    | _ => false

/-- ScalarStores: a cached and an uncached page, and memories in their canonical form. -/
theorem witness_stores : data.badS false [2, 3] = false ∧ stores data 0x10008 4 0 = true ∧ stores data 0x2FFF8 8 2 = true ∧
    data.tmem.wf = true ∧ data.l2s.wf = true := by decide +kernel

/-- Unmarked registers, whatever vl, the tag and the stream registers are. -/
theorem witness_unmarked : Unmarked base.cur ∧ Unmarked (vec 0).cur ∧ Unmarked (vec 4).cur :=
  ⟨unmarked_of_clean (by decide +kernel), unmarked_of_clean (by decide +kernel), unmarked_of_clean (by decide +kernel)⟩

/-- VectorIntegerResults, VectorWideningResults, VectorFloatResults, ConversionResults, PermuteResults: no element, and elements at
the narrowest and the widest type; a tag for the variable-latency forms. -/
theorem witness_elements : (vec 0).cur.count 32 = 0 ∧ (vec 4).cur.count 2 ≠ 0 ∧ (vec 4).cur.count 64 ≠ 0 ∧ good.s = false ∧
    good.rd.toNat < 16 ∧ (vec 4).cur.ctl.sa = 0 ∧ (on (tagged 3)).cur.ctl.sa ≠ 0 := by decide +kernel

/-- PermuteResults: a scalar index on both sides of N. -/
theorem witness_permute : (let k := ((on fun c => reg 3 4 (ctl 0 4 c)).opS 1 3).toNat; (vec 4).cur.count 32 ≤ k) ∧
    (let k := ((on fun c => reg 3 3 (ctl 0 4 c)).opS 1 3).toNat; k < (vec 4).cur.count 32) := by decide +kernel

/-- ReductionResults and ScanResults: a legal grant. -/
theorem witness_grant : LegalGrant (vec 0).cur ∧ LegalGrant (vec 4).cur := by unfold LegalGrant; decide +kernel

/-- MaskResults: bits below vl, and none. -/
theorem witness_masks : (15 : Reg).toNat < 16 ∧ min (vec 0).cur.vl 8192 = 0 ∧ min (vec 4).cur.vl 8192 ≠ 0 := by decide +kernel

/-- SetvlResult: the grant is adopted; the widths at both ends. -/
theorem witness_setvl : base.badS false [2] = false ∧ base.cur.mq = [] ∧ base.cur.pend = [] ∧ base.cur.status = .running ∧
    someWith base.adopt (fun l => l ≤ 32) = true ∧ (0 : BitVec 3).toNat ≤ 5 ∧ (5 : BitVec 3).toNat ≤ 5 := by decide +kernel

/-- ClaimAndConfig: a whole-cluster grant, a context without lanes, and a claim that is taken. -/
theorem witness_claim : 16 ≤ (on fun c => { c with lreq := 16 }).cur.lreq ∧
    (let s := on fun c => { c with icap := 0 }; s.cur.lreq < 16 ∧ s.cur.icap = 0) ∧
    base.cur.lreq < 16 ∧ base.cur.icap ≠ 0 ∧ base.cur.status = .running := by decide +kernel

/-- Stream register 1: `count` words from `a` on, `step` bytes apart; vl is 4 and register v8 holds the element numbers. -/
def stream (a step count : Nat) (s : State) : State := s.mapCur fun c =>
  { ctl 0 4 c with
    q := c.q.setIfInBounds 1 { base := BitVec.ofNat 64 a, stride := BitVec.ofNat 64 step, count := BitVec.ofNat 64 count, cfg := 4 }
    v := c.v.setIfInBounds 8 0x00000003000000020000000100000000 }

/-- Words through stream register 1. -/
def word : VMem := { rd := 4, rs1 := 1, rs2 := 8, w := .w }

/-- StreamRegisters. -/
theorem witness_streams : (15 : Reg).toNat < 16 ∧ base.badS false [2, 3] = false ∧ base.badS false [2] = false := by decide +kernel

/-- A unit-stride load finds all its elements, reads no poison, and ends where a fault-only-first load ends. -/
def unitLoad (s : State) (ends : Option Nat) : Bool :=
  let q := s.opQ 0 word.rs1
  let n := min (s.cur.count 32) q.left
  n != 0 && match s.probeAll q .w (onElems s word n) .read with
    | ((es, none), (q, t)) =>
      let ps := allPieces es
      let u := ((t.ordScope false .h).2.useAll .read ps).freshenAll (t.ordScope false .h).1 ps
      ffEnd es none == ends && (u.readElems (fun k => gatherTag q 32 s.cur.estart k) 32 es).1.2 == none
    | _ => false

/-- VectorLoads: elements in one page, and elements that reach a page whose NS bit ends a fault-only-first load. -/
theorem witness_unit_loads : Unmarked (stream 0x10000 4 8 data).cur ∧ (stream 0x10000 4 8 data).cur.rpt = false ∧ word.rs1.toNat < 16 ∧
    unitLoad (stream 0x10000 4 8 data) none = true ∧ unitLoad (stream 0x1FFF8 4 8 (page 2 6 0x5F base)) (some 2) = true ∧
    (let s := stream 0x10000 4 0 data; min (s.cur.count 32) (s.opQ 0 word.rs1).left = 0) :=
  ⟨unmarked_of_clean (by decide +kernel), by decide +kernel⟩

/-- VectorLoads and VectorStores, indexed: no element, and elements that all have places. -/
theorem witness_indexed :
    (let s := stream 0x10000 4 8 data; let q := s.opQ 0 word.rs1
     s.cur.count 32 ≠ 0 ∧ (s.probe (!q.chain) .read .w (s.idxPlaces word q (onElems s word 4))).2 = none ∧
       (s.probe (!q.chain) .write .w (s.idxPlaces word q (onElems s word 4))).2 = none) ∧
    (vec 0).cur.count 32 = 0 := by decide +kernel

/-- VectorStores, unit stride: elements that all have places, and none. -/
theorem witness_unit_stores :
    (let s := stream 0x10000 4 8 data; let q := s.opQ 0 word.rs1; let n := min (s.cur.count 32) q.left
     n ≠ 0 ∧ (s.probeAll q .w (onElems s word n) .write).1.2 = none) ∧ data.tmem.wf = true ∧ data.l2s.wf = true := by decide +kernel

/-- VectorStores: elements of a cached page, and of one beneath the caches, that all lie in one line. -/
theorem witness_line_stores :
    (∀ a ∈ [0x10000, 0x20080], let s := stream a 4 8 data; let q := s.opQ 0 word.rs1; let ps := allPieces (s.probeAll q .w (onElems s word 4) .write).1.1
     ps.length = 4 ∧ (ps.all fun p => match p.2.2 with
       | .page l pa => l.ca == (if a = 0x10000 then 0 else 2) && region pa == .fast && pa / 128 == (if a = 0x10000 then 0xA00 else 0xC01)
       | _ => false) = true ∧ q.chain = false) ∧ 8 ≤ EWidth.bits word.w ∧ word.ord ≠ .rel := by decide +kernel

/-- AccessFaultsFirst: an address with no translation, for scalar accesses and for the first element of vector ones. -/
theorem witness_access_faults :
    (match base.locateAll true .read (pieces 0x40000 4) with
     | .error _ => true
     | .ok _ => false) = true ∧
    (match base.locateAll true .write (pieces 0x40000 4) with
     | .error _ => true
     | .ok _ => false) = true ∧
    (let s := stream 0x40000 4 8 base; let q := s.opQ 0 word.rs1; let n := min (s.cur.count 32) q.left
     n ≠ 0 ∧ (match (s.probeAll q .w (onElems s word n) .read).1.2, (s.probeAll q .w (onElems s word n) .write).1.2 with
       | some (_, .fault ..), some (_, .fault ..) => true
       | _, _ => false) = true) := by decide +kernel

/-! ### Matrix path -/

/-- Tile 5 of cluster 0 is proofed for the context, one block wide; s20 names it, s21 a page, and s23 a count of one. -/
def matrix : State :=
  { on (fun c => reg 23 1 (reg 21 0x10000 (reg 20 0x0000000100000005 c))) with
    tiles := [{ cluster := 0, n := 5, owner := ownerField 3 0 0 5 0, clear := false }]
    regions := [{ cluster := 0, first := 5, count := 1, fw := 0, cols := 1, blocks := 1 }] }

/-- An unconsumed fetch of one row and one block, whose line at 0x1_0000 is pinned and not read. -/
def fetch : Fetch :=
  { rows := 1, nb := 1, base := 0x10000, stride := 0, width := 2, lines := [{ va := 0x200, line := 0xA00, key := 0, ca := 0 }] }

/-- An entry of the queue. -/
def entry (i : Instr) : MEntry := base.cur.entry i [] [] 0

/-- The matrix state with entries in the queue and a fetch. -/
def queued (es : List MEntry) (fs : List Fetch) : State := matrix.mapCur fun c => { c with mq := es, fetches := fs }

/-- MatrixIssue: a free queue, a legal shape, a width within the grant, rows in range, a tag, a region and a group that fit, and a
fetch of the same extent. -/
theorem witness_matrix_issue : Unmarked matrix.cur ∧ matrix.entryFree = true ∧
    (let d := matrix.opS 0 2; bits d 32 32 = 0 ∧ d.getLsbD 6 = false ∧ d.getLsbD 7 = false ∧ bits d 8 8 ≤ 127) ∧
    matrix.cur.tooWide = false ∧ rowMisuse (matrix.cur.cr 9) (matrix.opS 1 23) = true ∧ rowMisuse (matrix.cur.cr 9) (matrix.opS 1 2) = false ∧
    rowMisuse (matrix.cur.cr 9) (matrix.opS 0 2) = false ∧ (on (tagged 1)).cur.ctl.sa ≠ 0 ∧
    (let sw := matrix.opS 1 20; mpmWordOk sw = true ∧ matrix.regionOk sw = true ∧ bits sw 32 17 = 1 ∧
      groupCount (tshM (matrix.cur.cr 9)) (bits sw 32 17) (tshA (matrix.cur.cr 9)).bits matrix.cur.lanes ≤ 8 ∧
      fetch.rows = tshM (matrix.cur.cr 9) ∧ fetch.nb = bits sw 32 17) ∧ (queued [] [fetch]).cur.fetches = [fetch] ∧
    ((tshW (ctl 9 0x0000020200000000 matrix.cur |>.cr 9)).isInt = true ∧ tshW (ctl 9 0x0000020200000000 matrix.cur |>.cr 9) = .i8) :=
  ⟨unmarked_of_clean (by decide +kernel), by decide +kernel⟩

/-- MatrixIssue: the lines of a fetch of one block are pinned. -/
theorem witness_fetch :
    (let n := (matrix.opS 2 23).toNat; 1 ≤ n ∧ n ≤ 65536) ∧
    matrix.fetchWindow (matrix.opS 0 21) (matrix.opS 1 2) 1 8 = none ∧ matrix.cur.mq = [] ∧
    someWith (fetchLineVas (matrix.opS 0 21) (matrix.opS 1 2) 1 8) (fun vas => vas.length ≤ 256 && okWith (matrix.pinLines vas) fun _ => true) =
      true := by decide +kernel

/-- MatrixMisuse: a reserved bit, a shape too wide for the grant, and a full queue. -/
theorem witness_matrix_misuse : bits ((on (reg 2 0x100000000)).opS 0 2) 32 32 ≠ 0 ∧ (on (ctl 9 0x400)).cur.tooWide = true ∧
    (queued (List.replicate 16 (entry (.mzero {}))) []).entryFree = false := by decide +kernel

/-- MatrixMisuse: a row beyond the shape, a word of `mpm` with a reserved bit and one without blocks, fetches of other extents, fetches
that are too long, without blocks, through a window, and from a page that no cluster cache holds. -/
theorem witness_matrix_checks :
    (let x := (on (reg 2 1)).opS 0 2; tshM (base.cur.cr 9) ≤ bits x 0 6) ∧ bits (matrix.opS 1 20) 32 17 = 1 ∧ bits (matrix.opS 1 21) 32 17 = 0 ∧
    bits ((on (reg 20 0x0002000100000005)).opS 1 20) 49 15 ≠ 0 ∧ (queued [] [{ fetch with nb := 2 }]).cur.fetches = [{ fetch with nb := 2 }] ∧
    fetchLineVas 0x20000 0 1 (32 * 65536) = none ∧ data.fetchWindow 0x20000 0 1 (32 * 65536) = none ∧
    fetchLineVas 0x20000 0 1 0 = some [(0x400, 0x20000)] ∧ windowed 0x20000 = false ∧
    (match fetchLineVas 0x7FF00000040000 0 1 32 with
     | some (v :: _) => windowed v.2
     | _ => false) = true ∧
    (match data.locateAll false .read [(0x20000, 1)] with
     | .ok [(_, _, .page l pa)] => region pa != .fast || l.ca == 2
     | _ => false) = true := by decide +kernel

/-- MatrixResults: an empty queue, an extraction without poison, and elements of a tile that all have places. -/
theorem witness_matrix_results : matrix.cur.mq = [] ∧ matrix.cur.status ≠ .idle ∧ matrix.entryFree = true ∧ matrix.cur.tooWide = false ∧ matrix.cur.ctl.sa = 0 ∧
    (let f : TR := { rd := 3, ty := .f32, ty2 := .f32, rs1 := 1, rs2 := 2 }
     let c := matrix.cur
     (mextVec { c.entry (.mext f) [matrix.opS 0 f.rs2] [] (matrix.opM 2 f.vm.toNat) with mode := c.mode f.rm } f
       (matrix.opT 0 f.rs1.toNat) (c.v.getD (c.vslot f.rd.toNat) 0)).2 = false) ∧
    (let places := tilePlaces (matrix.cur.cr 9) (matrix.opS 0 21) (matrix.opS 1 2)
     (matrix.probe true .read .w places).2 = none ∧ (matrix.probe true .write .w places).2 = none) := by decide +kernel

/-- The result of an extraction, under tag 1, waits for its entry. -/
def extracting (i : Instr) : State := (queued [{ entry i with tag := 1 }] []).mapCur fun c =>
  { c with pend := [{ tag := 1, word := 0, slot := 0, done := false, vals := [{ reg := .v 3, val := 0 }] }] }

/-- A fetch whose line has been read, poisoned or not. -/
def fetched (bad : Bool) : Fetch := { fetch with lines := fetch.lines.map fun p => { p with copy := some (7, bad) } }

/-- MatrixQueueRuns: extractions that run, and an `mpm` of a block from a register and from a fetch, clean and poisoned. -/
theorem witness_matrix_more :
    (∀ i ∈ [Instr.mext { ty := .f32, ty2 := .f32 }, .mextFlags {}, .mfetch {}], (extracting i).cur.mq = [{ entry i with tag := 1 }] ∧
      (extracting i).fetchRoom (extracting i).cur { entry i with tag := 1 } = true ∧
      (extracting i).cur.status = .running ∧ (extracting i).cur.mstopped = false) ∧
    (∀ h ∈ [none, some (fetched false), some (fetched true)],
      let e : MEntry := { base.cur.entry (.mpm false h.isSome {}) [0x0000000100000005] [0] 0 with fetch := h }
      let s := queued [e] []
      s.cur.mq = e :: [] ∧ s.cur.mstopped = false ∧ s.fetchRoom s.cur e = true ∧ (∀ x, h = some x → x.whole = true ∧ s.winner 4 (s.fetching s.cur.cluster) ≠ some 0) ∧
      (s.regionAt 0 (bits (e.ops.getD 0 0) 0 7)).isSome = true ∧ (s.cur.cr 8).getLsbD 63 = false ∧ e.lanes ≤ 32 ∧ tshN e.tsh ≤ 4 * e.lanes) ∧
    (fetched false).poisonAt 0 0 = none ∧ (fetched true).poisonAt 0 0 = some 0x200 := by decide +kernel

/-- MatrixQueueRuns: an oldest entry of each body, nothing posted by the matrix path, and a line of the only fetch to read. -/
theorem witness_matrix_queue :
    (∀ i ∈ [Instr.mzero {}, .mopa { ty := .i8 }, .mscacc { ty := .e8m0 }, .mins { ty := .f32, ty2 := .f32 }],
      let s := queued [entry i] []
      s.cur.mq = entry i :: [] ∧ s.cur.status = .running ∧ (entry i).fetch = none ∧ (entry i).last = [] ∧ s.cur.mstopped = false ∧
        s.fetchRoom s.cur (entry i) = true) ∧
    (7 : Nat) < 8 ∧
    (let s := queued [entry (.mzero {})] [fetch]
     (entry (.mzero {})).fetch = none ∧ s.cur.fetches = [fetch] ∧ fetch.whole = false ∧ s.mayPin 0 fetch = true ∧ s.others = [] ∧
       someWith (s.fetchNext 0 fetch) (fun r => r.2.cur == s.cur && r.2.others == s.others) = true) := by decide +kernel

/-! ### Atomics, fences and maintenance -/

/-- Tile 4 belongs to the context. -/
def owner : State := { data with tiles := [{ cluster := 0, n := 4, owner := ownerField 1 0 0 0 0, clear := false }] }

/-- An atomic of four bytes at `va` finds a place that supports it, and reads no poison. -/
def atomicOk (s : State) (va : Nat) (tile famo : Bool) : Bool :=
  okWith (s.locate 0 0 0 0 true va .write) fun loc =>
    !badPlace .v famo loc && !onDevice loc && (match loc with
      | .tile _ _ => tile
      | .page _ _ => !tile
      | .scratch _ => false) &&
    !(((s.demote .v).2.useAll .write [(va, 4, loc)]).rmw 0 0 (scopeOf s .v) loc 4 fun x => some (x + 1, 0)).1.2.1

/-- A place in a tile of the context. -/
theorem ownTile_of {s : State} {va n : Nat} (h : (let o := (s.tile s.cur.cluster ((va - windowBase) / 65536)).owner
    windowBase ≤ va ∧ va < windowBase + 128 * 65536 ∧ va % 128 + n ≤ 128 ∧ tileKind o = 1 ∧ tileNode o = s.cur.slot)) : OwnTile s va n := h

/-- ScalarLoads, ScalarStores and AtomicResults: the last eight bytes of a block of the context's tile, and of the tile. -/
theorem witness_own_tile : CleanTile owner 0x7FF00000040078 8 ∧ OwnTile owner 0x7FF0000004FFF8 8 ∧ owner.tmem.wf = true :=
  ⟨⟨ownTile_of (by decide +kernel), by decide +kernel⟩, ownTile_of (by decide +kernel), by decide +kernel⟩

/-- VectorLoads and VectorStores: four elements of the context's tile, unit stride and indexed. -/
theorem witness_vector_tile :
    (let s := stream 0x7FF00000040000 4 8 owner
     let q := s.opQ 0 word.rs1
     q.chain = false ∧ onElems s word 4 = [0, 1, 2, 3] ∧
       ∀ k ∈ [0, 1, 2, 3], CleanTile s (q.place 32 k).1 4 ∧ CleanTile s (idxAddr s word q k) 4) ∧
    (stream 0x7FF00000040000 4 8 owner).cur.cut = none :=
  ⟨⟨by decide +kernel, by decide +kernel, fun k h => by
    simp only [List.mem_cons, List.not_mem_nil, or_false] at h
    rcases h with rfl | rfl | rfl | rfl <;>
      exact ⟨⟨ownTile_of (by decide +kernel), by decide +kernel⟩, ownTile_of (by decide +kernel), by decide +kernel⟩⟩, by decide +kernel⟩

/-- MatrixResults: a shape of one row and one column, whose element lies in the context's tile. -/
theorem witness_matrix_tile :
    (let s := owner.mapCur (reg 21 0x7FF00000040000)
     tshM (s.cur.cr 9) = 1 ∧ tshN (s.cur.cr 9) = 1 ∧ OwnTile s (s.opS 0 21).toNat 4) := ⟨by decide +kernel, by decide +kernel, ownTile_of (by decide +kernel)⟩

/-- The vector statements and the vector memory ones: no pre-emption, one that falls within the elements, and one past their end. -/
theorem witness_stop : (vec 4).cur.stopAt 1 4 = none ∧ { (vec 4).cur with cut := some 2 }.stopAt 1 4 = some 2 ∧
    { (vec 4).cur with cut := some 4 }.stopAt 1 4 = none ∧ { (vec 64).cur with cut := some 32 }.stopAt 32 64 = some 32 ∧
    { (vec 4).cur with cut := some 2 }.stopAt 0 4 = none ∧
    (let c := { (vec 4).cur with cut := some 2 }
     c.splitAt 1 4 3 32 (fun k => [c.place 1 32 k]) = some 2 ∧ c.splitAt 1 4 3 32 (fun k => [c.place 3 16 k]) = none) := by decide +kernel

/-- MaintenanceResults: pages that translate for each access, and a range of no bytes. -/
theorem witness_mapped : (∀ acc ∈ [Acc.read, .write, .discard], ∃ l, Mapped owner 0x10000 acc l) ∧ owner.opS 1 0 = 0 := by
  have ok : ∀ acc ∈ [Acc.read, .write, .discard], (owner.oldLeaves owner.cur.cluster owner.cur.part owner.cur.asid 0x10000 acc).isEmpty ∧
      (match owner.walk owner.cur.part owner.cur.asid 0x10000 acc with
      | .leaf l => !l.m && region (l.pa 0x10000) != .device
      | _ => false) = true := by decide +kernel
  refine ⟨fun acc m => ?_, by decide +kernel⟩
  obtain ⟨e, w⟩ := ok acc m
  split at w
  · next l hl =>
      simp only [Bool.and_eq_true, Bool.not_eq_true', bne_iff_ne] at w
      exact ⟨l, by decide, hl, w.1, w.2, by simpa using e⟩
  · cases w

/-- AtomicResults: a cached page, a page beneath the caches, and a tile of the context. -/
theorem witness_atomics : owner.badS false [2, 3, 4] = false ∧ owner.badS false [2, 3] = false ∧ atomicOk owner 0x10010 false true = true ∧
    atomicOk owner 0x20010 false false = true ∧ atomicOk owner 0x7FF00000040010 true true = true ∧ owner.tmem.wf = true := by decide +kernel

/-- FenceResults: no bank command and no posted cause; the scopes that drop lines. -/
theorem witness_fences : base.bank = [] ∧ (base.cur.posted.any fun p => p.unit == 5) = false ∧ (Scope.c ≠ .h) := by decide +kernel

/-- MaintenanceResults: a range of two pages that translate, for reading, writing and discarding. -/
theorem witness_maintenance : owner.badS false [2, 3] = false ∧
    (∀ acc ∈ [Acc.read, .write, .discard], okWith (owner.rangeLeaves acc (rangePages 0x1FF80 256)) (fun ps => ps.length == 2) = true) := by
  decide +kernel

/-! ### History streams and pools -/

/-- The first line of a descriptor (R81-R83, R91): items of two i32 elements in 64 bytes, one level above level 0, capacities 4 and 2,
levels at 0x2_1000, and a sum as the combiner. -/
def descLine : Nat := 0x03100200 + 2 ^ 64 * 0x21000 + 2 ^ 256 * (4 + 2 ^ 32 * 2) + 2 ^ 768 * 0x100201

/-- The data state with the descriptor at 0x2_0100, the counts HEAD, NCNT0 and NCNT1 in it. -/
def described (head n0 n1 : Nat) : State :=
  ((on id |> page 2 6 0x81F).plant 0x60100 128 descLine).plant 0x60180 128
    (2 ^ 256 * head + 2 ^ 384 + 2 ^ 512 * n0 + 2 ^ 544 * n1)

/-- The stream of that descriptor, with appends stalled on it. -/
def streamWith (q : List Stall) : HStream :=
  { streamOfDesc 0x20100 0 0 descLine with
    stack := stackOf 0x60000, stalled := q
    pages := match data.capture 0 0 .read memorySide [2] with
      | .ok ps => ps
      | .error _ => [] }

/-- The stream registered; s2 names it. -/
def history (head n0 n1 : Nat) (q : List Stall) : State :=
  { (described head n0 n1).mapCur (reg 2 0x20100) with streams := [streamWith q] }

/-- What `s2` names is the stream. -/
def named (s : State) : Bool :=
  match s.nameStream (s.opS 0 2).toNat with
  | (.stream h, _) => s.streams.contains h
  | _ => false

/-- An append of the context that waits. -/
def waits : Stall := { slot := 0, node := false, time := 0, item := 7 }

/-- HistoryAppend: a stream with room, and a full one that is not merge-faulted. -/
theorem witness_history_append : Unmarked (history 3 3 0 []).cur ∧ named (history 3 3 0 []) = true ∧
    ((streamWith []).stalled.any fun q => q.slot == 0 && !q.node) = false ∧ (streamWith []).ecnt ≤ 1 * 512 / (streamWith []).ty.bits ∧
    (history 3 3 0 []).hFull (streamWith []) = false ∧ named (history 4 4 0 []) = true ∧
    (history 4 4 0 []).hFull (streamWith []) = true ∧ (history 4 4 0 []).hMf (streamWith []) = false ∧
    (let s := (history 4 4 0 [waits]).mapCur fun c => { c with held := true }
     s.cur.held = true ∧ someWith (s.stalledOf s.cur.slot) (fun r => !r.2.node) = true) :=
  ⟨unmarked_of_clean (by decide +kernel), by decide +kernel⟩

/-- HistoryLoads: a live index at level 0 with its hs, an element below ECNT, a legal level, and counts within 64 bits. -/
theorem witness_history_loads : (history 3 3 0 []).badS false [2, 3] = false ∧
    okWith ((((history 3 3 0 []).nameStream 0x20100).2.pageMeet (streamWith []).pages
      ((history 3 3 0 []).hReads (streamWith []) 0 0)).histLoad (streamWith []) 0x20100 0 0) (fun r => r.2 < 2 ^ 64) = true ∧ (1 : BitVec 8).toNat < (streamWith []).ecnt ∧
    (history 3 3 0 []).cur.lanes ≠ 0 ∧ ¬ ((3 : BitVec 2) = 3 ∧ (streamWith []).nlev < (1 : BitVec 4).toNat) ∧
    (history 3 3 0 []).hHead (streamWith []) < 2 ^ 64 ∧ (history 3 3 0 []).hMcnt (streamWith []) < 2 ^ 64 ∧
    (history 3 3 0 []).hCnt (streamWith []) 1 < 2 ^ 64 := by decide +kernel

/-- HistoryConfig: a descriptor that may be registered, a stream that may restart, and one that may retire. -/
theorem witness_history_config : base.cur.super = true ∧
    (let s := (described 0 0 0).mapCur (reg 2 0x20100)
     let a := s.opS 0 2
     s.badS false [2] = false ∧ a.toNat < windowBase ∧ a.toNat % 256 = 0 ∧
     okWith (s.capture 0 0 .read memorySide (spanPages a.toNat 256)) (fun dp =>
       let x := s.pageGet dp a.toNat 128
       let y := s.pageGet dp (a.toNat + 128) 128
       let h := streamOfDesc a 0 0 (x.1 + 2 ^ 1024 * y.1)
       x.2 == none && y.2 == none && h.lbase.toNat < windowBase && descOk (x.1 + 2 ^ 1024 * y.1) &&
         okWith (s.capture 0 0 .read memorySide (spanPages h.lbase.toNat (levelBytes h.isz h.caps))) fun lp =>
           (dp ++ lp).all (fun q => !q.2.m) && ((dp ++ lp).map fun q => stackOf (q.2.pa (65536 * q.1))).eraseDups.length == 1) = true ∧ s.streams = []) ∧
    (let s := history 3 3 0 []
     let h := streamWith []
     let x := s.pageGet h.pages (h.va.toNat + 0x60) 32
     named s = true ∧ x.2 = none ∧ (s.pageGet h.pages (h.va.toNat + 0x80) 16).2 = none ∧
       postfixOk h.ty (toBytes (bits h.cfg 24 5) x.1) = true ∧ (toBytes (bits h.cfg 24 5) x.1).contains 3 = false ∧ h.stalled = []) := by
  decide +kernel

/-- A history node of two items, its block at 0x2_0400 and its source at 0x2_0800. -/
def historyNode : Node :=
  { slot := 9, serial := 1, part := 0, asid := 0, va := 0, words := [0x40000, 0x20400] ++ List.replicate 14 0, pred := 0, stat := .engine }

/-- KneaderEvents: a merge that may be taken and what it combines, an expiry, a stalled append that may commit, and the next item
of a history node. -/
theorem witness_kneader :
    (let s := history 3 3 0 []
     let h := streamWith []
     s.streamPa 0x60100 = some h ∧ s.hNext h = some 0 ∧ 0 < h.nlev ∧ s.hCnt h 1 < h.cap 1 ∧
       s.hMay h = true ∧
       (let u := s.pageMeet h.pages ([s.hOldestAt h 0, s.hOldestAt h 0 + 1].map fun k => ((h.slotVa 0 k : Int), h.isz))
        okWith (u.hItem h 0 (s.hOldestAt h 0)) (fun x => okWith (u.hItem h 0 (s.hOldestAt h 0 + 1)) fun y => (h.combine x y).isSome) = true)) ∧
    (let s := history 7 3 2 []
     let h := streamWith []
     s.streamPa 0x60100 = some h ∧ s.hNext h = some h.nlev ∧ s.hMay h = true) ∧
    (let s := history 3 3 0 [waits]
     let h := streamWith [waits]
     s.streamPa 0x60100 = some h ∧ s.stalledOf 0 = some (h, waits) ∧ s.hFull h = false ∧ h.stalled.head? = some waits ∧
       s.cur.status ≠ .idle ∧ s.cur.slot = 0 ∧ s.cur.views = none) := by decide +kernel

/-- A descriptor and the place of an item at `a` are apart, in captured pages, clean (Claims.ItemPlace). -/
def placed (s : State) (a : Nat) : Bool :=
  let h := streamWith []
  h.va.toNat % 256 == 0 && someWith (leafAt h.pages h.va.toNat) (!·.d) && h.isz ≤ 256 && a % h.isz == 0 &&
    (pieces a h.isz).all (fun q => someWith (leafAt h.pages q.1) (!·.d)) && (itemLines h a).Nodup &&
    (itemLines h a).all (fun x => x != Claims.descLine h && !s.mem.poisoned x) && s.latent == []

/-- HistoryAppend and KneaderEvents: items that have their places, and an oldest one of the top level. -/
theorem witness_items : placed (history 3 3 0 []) ((streamWith []).slotVa 0 3) = true ∧ placed (history 3 3 0 []) ((streamWith []).slotVa 1 0) = true ∧
    (let s := history 7 3 2 []; let h := streamWith []; 2 ≤ s.hCnt h h.nlev ∧ s.hCnt h h.nlev ≤ s.hEver h h.nlev) := by decide +kernel

/-- KneaderEvents, a history node whose run has been taken up, within it and at its end. -/
theorem witness_history_run : ∀ k ∈ [0, 1],
    let n : Node := { historyNode with prog := k, hist := some { desc := 0x60100, src := 0x20800, cnt := 2 } }
    let s : State := { history 3 3 0 [] with nodes := [n] }
    s.node 9 = some n ∧ s.stalledOf 9 = none ∧ s.streamAt 0 0x60100 = some (streamWith []) ∧ n.prog < 2 ∧
      windowed (0x20800 + n.prog * (streamWith []).isz) = false ∧ (streamWith []).stalled = [] ∧ s.hFull (streamWith []) = false ∧
      okWith (s.agentGet sysAgent 0 0 (0x20800 + n.prog * (streamWith []).isz) (streamWith []).isz) (fun r => !r.2.hFull (streamWith [])) = true := by
  decide +kernel

/-- KneaderEvents, the history node. -/
theorem witness_history_node :
    (let s := { history 3 3 0 [] with nodes := [historyNode] }
     let s := s.plant 0x60400 32 (0x20100 + 2 ^ 64 * 0x20800 + 2 ^ 128 * 2)
     let n := historyNode
     s.node 9 = some n ∧ n.stat = .engine ∧ recKind n.words = 4 ∧ s.stalledOf 9 = none ∧ n.hist = none ∧
       okWith (s.histBlock n) (fun r =>
         (match r.2.nodeStream n (wordAt r.1 0).toNat with
           | .ok h => h == streamWith [] && (wordAt r.1 1).toNat % h.isz == 0 && h.stalled == [] &&
             (let w := r.2.nodeUses n (wordAt r.1 0).toNat
              !w.hFull h && okWith (w.agentGet sysAgent 0 0 ((wordAt r.1 1).toNat + n.prog * h.isz) h.isz) (fun x => !x.2.hFull h))
           | .error _ => false) && n.prog < (wordAt r.1 2).toNat && n.prog + 1 != (wordAt r.1 2).toNat) = true) := by decide +kernel

/-- A pool of four entries at 0x2_0200 whose descriptor stands at 0x2_0040 and counts `n`; s2 names it. -/
def pool (n : Nat) : State :=
  (data.mapCur (reg 2 0x20040)).plant 0x60040 64 (0x20200 + 2 ^ 64 * 4 + 2 ^ 128 * n)

/-- A key-value cache with slots of 64 bytes, its chain page at 0x2_0000 and its pool at 0x2_0040; s3 names it. -/
def cache : State := ((pool 1).mapCur (reg 3 0x20080)).plant 0x60080 64 (0x20000 + 2 ^ 64 * 0x20000 + 2 ^ 192 * 64 + 2 ^ 256 * 0x20040)

/-- PoolResults: an entry to pop, room to push, an append within the chain page, an empty and a full pool. -/
theorem witness_pools : cache.badS false [2, 3] = false ∧
    okWith ((pool 4).poolOpen 0x20040) (fun r => r.1.2.2 == 4 &&
      okWith (r.2.poolWord (r.1.1 + 8 * 3) .read) fun q =>
        let w := q.2.countIn sysAgent 0 0 [(r.1.1 + 8 * 3, 8)]
        q.1 < 2 ^ 64 && unheard (w.poolPut (0x20040 + 0x10) 8 3).cur == unheard (pool 4).cur) = true ∧
    okWith ((pool 3).poolOpen 0x20040) (fun r => r.1.2.2 != r.1.2.1 && okWith (r.2.poolLeaf (r.1.1 + 8 * 3) .write) fun _ => true) =
      true ∧
    okWith (cache.kvAppend 0x20080) (fun r => r.1 < 2 ^ 64 && unheard r.2.cur == unheard cache.cur) = true ∧
    okWith ((pool 0).poolOpen 0x20040) (fun r => r.1.2.2 == 0) = true ∧ ((pool 0).mapCur (tagged 2)).cur.ctl.sa ≠ 0 ∧
    okWith ((pool 4).poolOpen 0x20040) (fun r => r.1.2.2 == r.1.2.1) = true := by decide +kernel

/-- PoolResults: words of a cache whose tail has room for the next slot, and of one whose tail is full, with a page to take. -/
theorem witness_kv_words :
    okWith (cache.poolRecord 0x20080) (fun r => match r.1 with
      | head :: tail :: ntok :: ks :: pool :: rest =>
        head % 65536 == 0 && tail % 65536 == 0 && ntok < 2 ^ 48 && ks < 2 ^ 32 && rest.all (· == 0) && pool % 64 == 0 && ks % 65536 == 64 &&
          ks / 65536 % 65536 < 65408 / 64 && !windowed pool && !windowed tail && tail != 0 &&
          unheard ((r.2.poolPut (0x20080 + 0x10) 8 1).poolPut (0x20080 + 0x18) 8 (64 + 65536)).cur == unheard cache.cur
      | _ => false) = true ∧
    (let s := (pool 1).plant 0x60200 8 0x20000
     okWith (s.poolTake 0x20040) (fun r => r.1 % 65536 == 0 && okWith (r.2.chainPage r.1) fun _ => true) = true) := by decide +kernel

/-! ### Tiles, engines, nodes and banks -/

/-- TileOwnership: free tiles and an own one to take, one that another node holds, tiles to give, a shape to proof, and a region to
unproof; the range that ends with the last tile. -/
theorem witness_tiles : rangeBad 4 0 = false ∧ rangeBad 127 0 = false ∧ rangeBad 0 127 = false ∧ rangeBad 127 1 = true ∧
    (∀ j ∈ tileRange 4 1, mineOf owner j = true ∨ (owner.tile 0 j).takeable 0 = true) ∧
    (let s := { owner with tiles := [{ cluster := 0, n := 4, owner := ownerField 1 0 0 0 7, clear := false }] }
     mineOf s 4 = false ∧ (s.tile 0 4).takeable 0 = false) ∧
    owner.ownsAll (tileRange 4 0) = true ∧ owner.ownsAll (tileRange 4 1) = false ∧ owner.badS false [2] = false ∧
    (match owner.checkTiles (tileRange 4 0) with
     | .ok => true
     | _ => false) = true ∧ (shapeOf ((on (reg 2 0x0000000200000000)).opS 0 2) 1).isSome = true ∧
    (matrix.regionAt 0 5).isSome = true ∧ tileKind (matrix.tile 0 5).owner = 3 ∧ tileNode (matrix.tile 0 5).owner = matrix.cur.slot ∧
    matrix.cur.mq = [] ∧ matrix.cur.status ≠ .idle ∧ matrix.tmem.wf = true := by decide +kernel

/-- A copy passes the checks of its tiles and pages. -/
def copies (s : State) (j : CopyJob) : Bool :=
  (match s.checkTiles j.tileList with
   | .ok => true
   | _ => false) && okWith (s.copyStart 0 0 0 0 false j) fun _ => true

/-- CopyCommands: a load and a store of a line, and a command block at 0x2_0400 that copies 128 bytes into tile 4. -/
theorem witness_copies : (owner.mapCur fun c => reg 3 128 (reg 2 0x20000 c)).badS false [2, 3] = false ∧
    (let t0 : Int := 65536 * 4
     copies owner { sp := .mem, dp := .tiles, src := 0x20000, dst := t0, len := 128, rows := 1, ss := 0, ds := 0 } = true ∧
     copies owner { sp := .tiles, dp := .mem, src := t0, dst := 0x20000, len := 128, rows := 1, ss := 0, ds := 0 } = true) ∧
    (let s := owner.plant 0x60400 64 (8 + 2 ^ 64 * 0x20000 + 2 ^ 128 * 4 + 2 ^ 192 * 128)
     okWith (s.locateAll false .read (pieces 0x20400 64)) (fun ps =>
       let r := (s.useAll .read ps).readPieces 0 0 false ps
       r.1.2 == none && someWith (blockJob (wordsOf 8 r.1.1)) fun j =>
         j.sp == .mem && j.srcRuns.all (fun q => 0 ≤ q.1 && q.1 + q.2 ≤ windowBase) &&
           copies (r.2.countDiscarded 0 (discardedLines ps)) j) = true) := by decide +kernel

/-- CopyCommands: a source and a destination that no L2 slice holds. -/
theorem witness_copy_source : (match owner.probePages 0 0 .read (fun _ => none) [(2, 0x20000)] with
    | .ok rp => rp.all fun q => !q.2.d && region (q.2.pa (65536 * q.1)) == .fast && q.2.ca == 2
    | _ => false) = true ∧ owner.latent = [] := by decide +kernel

/-- Tile 4 of the context with the header `h` of a sort (R313). -/
def sorting (h : Nat) : State := { owner with tmem := owner.tmem.setLine (tileAddr 0 4 0 / 128) (BitVec.ofNat 1024 h) }

/-- RallyInstructions: a sort to run, one that is finished, and a tile whose header may be read. -/
theorem witness_rally :
    (∀ h ∈ [3, 0x2006], let s := sorting h
      (match s.checkTiles [4] with
       | .ok => true
       | _ => false) = true ∧ (s.tileGet 0 4 0 8).2 = false ∧ hdrOk (s.rallyHdr 0 4) = true ∧ s.rallyPad 0 4 = true) ∧
    hdrSt ((sorting 3).rallyHdr 0 4) ≠ 2 ∧ hdrSt ((sorting 0x2006).rallyHdr 0 4) = 2 ∧
    tileKind ((sorting 3).tile 0 4).owner = 1 ∧ tileNode ((sorting 3).tile 0 4).owner = (sorting 3).cur.slot ∧
    (sorting 3).sortTurn 0 = none := by decide +kernel

/-- NodeInstructions: a record that is accepted, one that is refused, entries of a batch, and a node that may end. -/
theorem witness_nodes : data.badS false [2] = false ∧ okWith ((data.release .v).submit 0 0 0x20300) (fun _ => true) = true ∧
    (match (data.release .v).submit 0 0 0x20308 with
     | .error .refused => true
     | _ => false) = true ∧
    (let c := (vec 2).cur
     let n := min c.vl (min (32 * c.lanes) 64)
     c.lanes ≠ 0 ∧ n ≠ 0 ∧ (8 : Reg).toNat + ceilDiv (2 * n) (8 * c.lanes) ≤ 64) ∧
    ((vec 2).release .v).batchWaits (fun _ => true) (fun _ => (0x20300, 0)) [0, 1] = false ∧
    ((page 2 6 0x91F base).release .v).batchWaits (fun _ => true) (fun _ => (0x20041, 0)) [0] = true ∧ (15 : Reg).toNat < 16 ∧
    base.cmds = [] ∧ base.bank = [] ∧ base.cur.mq = [] ∧ base.cur.posted = [] ∧ base.cur.status = .running ∧
    base.servedNode base.cur.slot = none := by decide +kernel

/-- BankInstructions: a record of a map over four elements, and four entries to gather and to scatter. -/
theorem witness_banks :
    (let s := data.plant 0x60400 128 (0x100 + 2 ^ 64 * 0x20500 + 2 ^ 256 * 0x20500 + 2 ^ 320 * 4 + 2 ^ 384 * 1)
     (match s.locate 0 0 0 0 false 0x20400 .read with
      | .ok (.page l pa) => region pa == .fast && l.ca == 2 &&
          (let ps := [(0x20400, 128, Loc.page l pa)]
           let r := (s.useAll .read ps).readPieces 0 0 false ps
           r.1.2 == none && okWith (r.2.bankStart 0 0 0 false 0x20400 r.1.1) fun _ => true)
      | _ => false) = true) ∧ Unmarked (stream 0x20000 4 8 data).cur ∧
    (let s := (stream 0x20000 4 8 data).mapCur (tagged 1)
     let es := s.bankEntries 0x20700 8 (s.opM 2 0) .i32
     let probed (acc : Acc) : Bool := okWith (s.probePages 0 0 acc Leaf.notChannel (es.map fun e => (e.2 / 65536, e.2))) fun _ => true
     s.cur.ctl.sa ≠ 0 ∧ (stream 0x20000 4 8 data).cur.ctl.sa = 0 ∧ es.length = 4 ∧ (∀ e ∈ es, e.2 < windowBase) ∧ probed .read = true ∧
       probed .write = true) :=
  ⟨by decide +kernel, unmarked_of_clean (by decide +kernel), by decide +kernel⟩

/-! ### Barriers, traps, contexts and the dispatcher -/

/-- A node that runs in ready-pool slot `k`. -/
def node (k : Nat) (stat : NodeStat) : Node :=
  { slot := k, serial := k, part := 0, asid := 0, va := 0, words := List.replicate 16 0, pred := 0, stat := stat }

/-- A launch of `n` instances in one cluster-level group. -/
def group (n : Nat) : LaunchOf := { va := 0, serial := 5, doms := [1], exts := [n], scopes := [1], index := 0, coords := [0], tail := 0 }

/-- `n` instances of one launch, the context in focus the first of them. -/
def team (n : Nat) : State :=
  { base with nodes := (List.range n).map fun k => { node k .running with launch := some { group n with coords := [0] } } }

/-- The group, its size and its phase, as the context sees them. -/
def groupIs (s : State) (size : Nat) : Bool :=
  someWith (s.groupOf 0) fun g => let b := s.barrier g.1 0; b.size == size && b.arrived == [] && b.phase == 0

/-- WaitingInstructions: a group whose last member arrives and one whose member waits, a phase that has moved and one that has not,
a sync begun, a wake heard, a line to watch, and translations to invalidate with and without a command that uses one. -/
theorem witness_waiting : groupIs (team 1) 1 = true ∧ groupIs (team 2) 2 = true ∧
    (team 2).badS true [2] = false ∧ ((on (reg 2 1)).opS 0 2).setWidth 32 ≠ (0 : BitVec 32) ∧
    ((team 2).opS 0 2).setWidth 32 = (0 : BitVec 32) ∧ (team 2).cur.syncing 0 = none ∧
    ((team 2).mapCur fun c => { c with sync := some (0, 0, 0) }).cur.syncing 0 = some 0 ∧
    (let c := (on fun c => { c with held := true, heard := some .write }).cur; c.held = true ∧ c.heard = some .write) ∧
    base.cur.held = false ∧ base.badS false [2, 3] = false ∧
    (match base.locate 0 0 0 0 false 0x10080 .read with
     | .ok (.page _ pa) => region pa != .device
     | _ => false) = true ∧ base.cur.super = true ∧ (base.opS 0 2).toNat < windowBase ∧ base.pteBusy 0 0 0 0x10000 = false ∧
    (let s := { base with bank := [{ id := 0, slot := 0, part := 0, asid := 0, node := false, kind := 0, recVa := 0, ef := 0, expr := [], consts := []
                                     a := 0, b := 0, c := 0, d := 0, n := 1
                                     pages := match data.capture 0 0 .read memorySide [2] with
                                       | .ok ps => ps
                                       | .error _ => [] }] }
     s.pteBusy 0 2 0 0x20000 = true) ∧ base.settles 0 = true ∧
    (let s := { queued [] [fetch] with budg1 := 0, credits := [] }; s.settles 0 = false) := by decide +kernel

/-- A cause posted by an engine for tile 4. -/
def cause : Posted := { code := 0x0D2, tval := 0, tiles := [4], unit := 0 }

/-- ServiceRoute: the only context of its slot, the light route closed, task mode, a poisoned operand, and a cause that is due. -/
theorem witness_service : OnlySlot base ∧ base.cur.lightReady = false ∧ (on fun c => { c with super := false }).cur.super = false ∧
    (26 : BitVec 5).toNat ∈ [10, 11, 12, 17, 22, 23, 24, 25, 26] ∧ base.cur.super = true ∧ (base.cur.cr 24).getLsbD 0 = false ∧
    (on fun c => { c with ps := BitVec.allOnes 128 }).badS false [2, 3] = true ∧
    (let s := on fun c => { c with posted := [cause] }; s.postedDue = some cause) := by
  unfold OnlySlot; decide +kernel

/-- The light route is open for every event, and event `k` is pending. -/
def eventful (k : Nat) : State := on fun c => ctl 28 (BitVec.ofNat 64 (2 ^ k)) (ctl 23 0x8000000F00010000 c)

/-- LightRoute: open in both modes, active for a return, and the first and the last event. -/
theorem witness_light : (eventful 0).cur.views = none ∧ (eventful 0).cur.lightReady = true ∧ base.cur.super = true ∧
    ((on (ctl 24 3)).cur.cr 24).getLsbD 0 = true ∧
    (∀ k ∈ [0, 3], let s := eventful k; s.cur.status = .running ∧ s.postedDue = none ∧ s.eventNow = some k) := by
  decide +kernel

/-- ControlRegisters: ordinary numbers, ctl.fflags with nothing pending, and a privileged one in supervisor mode. -/
theorem witness_control : (28 : BitVec 5).toNat ≠ 14 ∧ (14 : BitVec 5).toNat = 14 ∧ base.cur.pend = [] ∧ base.badS false [2] = false ∧
    base.cur.super = true := by decide +kernel

/-- A parked node in slot 4 with its context and its image at 0x3_0000, and a handler for it in slot 0; s2 names the image. -/
def handling : State :=
  { (page 3 7 0x1F base).mapCur (reg 2 0x30000) with
    others := [{ status := .parked, slot := 4 }]
    nodes := [{ node 4 .parked with image := 0x30000 }, { node 0 .running with faulted := some 4, inputs := [0x30000, 0, 0, 0, 4] }] }

/-- Slot 4 is out, and hart 3 of cluster 0 of an enabled partition is free. -/
def ready : State :=
  { base with
    cur := {}, others := [{ status := .out, slot := 4 }], nodes := [node 4 .out]
    parts := base.parts.setIfInBounds 0 { base.partReg 0 with ppol := 0x80000003, pclu := 1 } }

/-- ContextEvents: a context that may leave, the last granule, nothing in flight, a due timer, an image to return to, and a hart to
resume on. -/
theorem witness_contexts : OnlySlot base ∧ base.switchWaits base.cur = false ∧ 703 < imageGranules base.cur.lanes ∧ base.cur.mq = [] ∧
    base.bank = [] ∧
    (let c := (on fun c => { ctl 27 5 c with timer := true }).cur; c.timer = true ∧ c.cr 27 ≠ 0 ∧ (c.cr 27).toNat ≤ { base with time := 5 }.time) ∧
    someWith (handling.ctxOf 4) (fun d => d.status == .parked) = true ∧ handling.busy 0 = false ∧ handling.busy 4 = false ∧
    OnlySlot handling ∧ handling.cur.super = true ∧ handling.badS false [2] = false ∧
    handling.resumable (handling.opS 0 2) = some 4 ∧ 4 ≠ handling.cur.slot ∧
    someWith ((handling.release .v).ctxOf 4) (fun d => match (handling.release .v).unpark d 0x30000 with
      | .ok _ => true
      | .fault _ => false) = true ∧
    (let d : Ctx := { status := .out, slot := 4 }
     ready.cur.status = .idle ∧ ready.ctxOf 4 = some d ∧ ready.node 4 = some (node 4 .out) ∧ ready.canResume d (node 4 .out) 0 3 = true) := by
  unfold OnlySlot; decide +kernel

/-- The ready state with a node to place instead. -/
def placing (n : Node) (t : Nat) : State := { ready with others := [], nodes := [n], time := t }

/-- A whole-cluster request that has waited. -/
def wide : Node := { node 4 .ready with words := [0x2D00000] ++ List.replicate 15 0 }

/-- A node whose watchdog counts, with a limit of one period; `replays` says that its record asks for a replay. -/
def watched (replays : Bool) : State :=
  let w : Word := if replays then 0x0000000180000000 else 0x0000000100000000
  { base with nodes := [{ node 0 .running with words := w :: List.replicate 15 0, watchOn := true }], period := 1 }

/-- One cluster in the dispatcher's order (log 3). -/
theorem turned_one (k x : Nat) : turned k [x] = [x] := by simp [turned, Nat.mod_one]

/-- The node of `placing` goes to the one cluster that there is. -/
theorem placement_one : (placing (node 4 .ready) 0).placement (node 4 .ready) = some [(node 4 .ready, 0)] := by
  have h : (placing (node 4 .ready) 0).clustersFor (node 4 .ready) = [0] := by decide +kernel
  simp only [State.placement, State.assign, h, turned_one]
  decide +kernel

/-- SchedulerEvents: a node to place. -/
theorem witness_dispatch : (let s := placing (node 4 .ready) 0; let n := node 4 .ready
    s.cur.status = .idle ∧ s.choose = some (0, n) ∧ s.placement n = some [(n, 0)] ∧ n.isEngine = false) := by
  refine ⟨by decide +kernel, ?_, placement_one, by decide +kernel⟩
  have h : (placing (node 4 .ready) 0).nodes = [node 4 .ready] := rfl
  simp only [State.choose, State.nextOf, State.firstReady, h, List.filter_cons, placement_one, List.filter_nil]
  decide +kernel

/-- A node that waits for a whole cluster, and a cluster that another context shares. -/
def crowded : State :=
  { placing wide 54000 with
    others := [{ ctl 1 1 {} with status := .running, slot := 6, lreq := 1, lmin := 1, icap := 1, target := 1 }] }

/-- SchedulerEvents: a drain. -/
theorem witness_drain : crowded.node 4 = some wide ∧ crowded.mayDrain wide = true ∧ crowded.drainFirst wide = true ∧
    crowded.drains = [] ∧ crowded.drainSet wide ≠ [] := by
  have h : crowded.clustersFor wide = [0] := by decide +kernel
  have m : crowded.mayDrain wide = true := by
    simp only [State.mayDrain, State.assign, h, turned_one]
    decide +kernel
  have n : crowded.nodes = [wide] := rfl
  refine ⟨by decide +kernel, m, ?_, by decide +kernel, by decide +kernel⟩
  simp [State.drainFirst, n]

/-- SchedulerEvents: a watchdog at its limit with and without replay, a boundary of the time base, a requester, and a wait whose time
is over. -/
theorem witness_scheduler :
    (∀ b ∈ [true, false], let s := watched b
      someWith (s.node 0) (fun n => n.counting && !n.half && !n.replay && s.watchLimit n * periodTenths ≤ s.counted n &&
        (wordAt n.words 0).getLsbD 31 == b && wordAt n.words 10 == 0) = true ∧ s.cur.status = .running ∧ s.cur.slot = 0) ∧
    (let s := { base with time := 11060 }; periodTenths * (s.period + 1) ≤ 10 * s.time ∧ (s.counters.map (·.1)).Nodup) ∧
    (let s := { on (fun c => { c with wgt := 1 }) with asks := [{ res := 1, slot := 0 }] }
     s.cur.status = .running ∧ s.cur.slot = 0 ∧ s.others = [] ∧ s.cur.mq.length < 16 ∧ s.cur.wgt ≠ 0) ∧
    (let d : Ctx := { status := .running, slot := 6, hart := 2, wgt := 1, vtime := ⟨#[0, 256, 0, 0, 0], by decide⟩ }
     d.cluster = base.cur.cluster ∧ d.slot ≠ base.cur.slot ∧ base.cur.vtime.getD 1 0 < d.vtime.getD 1 0) ∧
    (let s := { on fun c => { c with monitor := some 0xA01 } with time := 2000000 }
     s.cur.monitor.isSome = true ∧ s.cur.heard = none ∧ s.wfeOver s.cur = true) := by decide +kernel

/-! ### Caches, the stager, engines and the edge -/

/-- A write of cluster 0 on its way to line 0xA01. -/
def sent : Send :=
  { origin := 0, cluster := 0, num := 1, stamp := [0, 0, 0, 0, 0], line := 0xA01, data := 7, mask := BitVec.allOnes 128, key := 0, chan := false }

/-- A context that stalls on hart 2. -/
def stalled : Ctx := { status := .running, slot := 6, hart := 2, held := true }

/-- CacheEvents: a cached clean line and one that is stale, a write that may be applied, a stalled context that may go on. -/
theorem witness_caches :
    (let c : CLine := { owner := 0, line := 0xA00, data := 0 }
     let s := { base with l1 := [c], cc := [{ c with stale := true }] }
     cacheFind s.l1 0 0xA00 = some c ∧ c.dirty = 0 ∧ cacheFind s.cc 0 0xA00 = some { c with stale := true }) ∧
    (let s := { base with sends := [sent] }
     (s.sends.find? fun x => x.origin == 0) = some sent ∧ s.canApply sent = true ∧ sent.mask = fullMask ∧
       region (128 * (2 ^ 34)) ≠ .fast) ∧ (4 : Nat) < 5 ∧
    (let s := { base with others := [stalled] }
     (s.others.find? fun x => x.slot == 6 && x.status == .running && x.held) = some stalled) ∧ base.cur.status = .running := by
  decide +kernel

/-- The stager is on in partition 0, whose pools of one fast and one capacity frame stand in frame 6. -/
def staging (s : State) : State :=
  let s := { s with
    fot := s.fot ++ [(7, 0x80), (frameIndex 0x2000000, 0x80), (frameIndex 0x2000001, 0x80)]
    parts := s.parts.setIfInBounds 0 { s.partReg 0 with stgctl := 0x80000032, stgfast := 0x60800, stgcap := 0x60840 } }
  ((s.plant 0x60800 64 (0x60900 + 2 ^ 64 * 4 + 2 ^ 128)).plant 0x60840 64 (0x60980 + 2 ^ 64 * 4 + 2 ^ 128)).plant 0x60900 8 7
    |>.plant 0x60980 8 0x2000001

/-- A node that declares page 3. -/
def declares : Node := { node 8 .ready with wset := [(0x30001, 1)] }

/-- A migration of page 3 (entry 0x4_0018). -/
def moving (up : Bool) : Migration := { part := 0, asid := 0, entry := 0x40018, old := 7, new := 8, up := up, page := 3, wi := false }

/-- StagerEvents: migrations in progress both ways, and a promotion that may begin. -/
theorem witness_promotion :
    (let s := { base with migs := [moving true] }
     (s.migs.find? fun m => m.up && m.page == 3 && (s.node 8).all (fun n => n.part == m.part && n.asid == m.asid)) = some (moving true) ∧ s.mayInvalidate 0 7 = true) ∧
    (let s := { base with migs := [moving false] }; (s.migs.find? fun m => !m.up && m.part == 0) = some (moving false)) ∧
    (let s := { staging (page 3 0x2000000 0x21F data) with nodes := [declares] }
     s.migs = [] ∧ s.node 8 = some declares ∧ (declares.entryOf 3).isSome = true ∧
       someWith (s.pageLeaf 0 0 3) (fun l => l.tier && !l.big && !l.m && s.mayInvalidate 0 l.frame) = true ∧ s.starting = false ∧ s.stageOn 0 = true ∧
       (match s.popFrame 0 true 65536 with
        | (some f, _) => s.mayStage f
        | _ => false) = true) := by decide +kernel

/-- StagerEvents: a demotion that may begin, of the page that is marked for it. -/
theorem witness_demotion :
    (let s := { staging (page 3 7 0x1F data) with marked := [(0, 0x40018)] }
     someWith (s.demotable 0) (fun l => s.mayStage l.frame) = true ∧ s.stageOn 0 = true ∧ s.migs.length < 64 ∧
       (match s.popFrame 0 false 65536 with
        | (some _, _) => true
        | _ => false) = true) := by decide +kernel

/-- Octet 0 belongs to partition 0. -/
def octet : State := { base with parts := base.parts.setIfInBounds 0 { base.partReg 0 with poct := 1 } }

/-- StagerEvents: lines of both tiers to scrub, a frame in quarantine, and owners that the table takes and refuses. -/
theorem witness_frames : region (128 * 2 ^ 34) = .cap ∧ region (128 * 0xA00) = .fast ∧ 2 ≤ base.credit (sliceOf 0xA00) .scrub ∧
    (let s := { base with fot := [(9, 0x40)] }; (s.frameByte 9).getLsbD 6 = true ∧ s.frameBusy 9 = false ∧ s.starting = false) ∧
    { base with rstctl := 0x80000000 }.starting = true ∧ base.latent = [] ∧
    region (65536 * 9) = .fast ∧ octet.octetPart (octetOf (65536 * 9)) = some (bits (0x80 : BitVec 8) 0 4) ∧
    (0x81 : BitVec 8).getLsbD 7 = true ∧ octet.octetPart (octetOf (65536 * 9)) ≠ some (bits (0x81 : BitVec 8) 0 4) := by decide +kernel

/-- A command on tile 4. -/
def command (op : EngOp) (running parked : Bool) : EngCmd :=
  { id := 3, slot := 0, part := 0, asid := 0, cluster := 0, node := false, op := op, tiles := [4], pages := [], running := running, parked := parked }

/-- The sort with header `h` in Rally's queue. -/
def sorts (h : Nat) (cs : List EngCmd) : State := { sorting h with cmds := cs }

/-- EngineEvents: a copy that ends, a sort at its last step, one that meets poison, one to park and one to resume. -/
theorem witness_engines :
    (let c := command (.copy [] 0) true false
     let s : State := { owner with cmds := [c] }
     s.cmd 3 = some c ∧ c.op ≠ .sort ∧ c.running = true ∧ (s.ctxOf c.slot).all (fun x => x.status == .running) = true ∧
       (({ s with cur := {}, others := [{ status := .out }] } : State).ctxOf c.slot).all (fun x => x.status == .running) = false) ∧
    (let c := command .sort true false
     let s := sorts 0x771003 [c]
     s.sortTurn 0 = some c ∧ (s.ctxOf c.slot).all (fun x => x.status == .running) = true ∧ s.mustPark c = false ∧
       s.rallyPoison 0 4 8 = none ∧ 2 ^ hdrLog (s.rallyHdr 0 4) = 8 ∧ hdrSt ((s.rallyRun c rallyLimit).rallyHdr 0 4) = 2 ∧
       (let t := { s with tmem := s.tmem.setPoison (tileAddr 0 4 128 / 128) true }
        t.sortTurn 0 = some c ∧ (t.rallyPoison 0 4 8).isSome = true)) ∧
    (let c := command .sort true false
     let w := { command .sort false false with id := 4, slot := 9, tiles := [6] }
     let s := { sorts 3 [c, w] with nodes := [node 9 .running] }
     w ∈ s.sortsWaiting 0 ∧ s.cmdClass w < s.cmdClass c ∧ someWith ((s.sortSteps c 0).cmd 3) (fun d => !d.ended) = true) ∧
    (let c := command .sort false true
     let s := sorts 3 [c]
     s.sortTurn 0 = none ∧ s.sortParked 0 = some c ∧ s.mustPark c = false ∧ s.rallyPoison 0 4 2 = none ∧ hdrSt ((s.rallyRun c 0).rallyHdr 0 4) ≠ 2) := by decide +kernel

/-- A write of one line of a copy. -/
def copyWrite (tile : Bool) (a : Nat) : EngWrite := { tile := tile, addr := a, data := 7, mask := fullMask, poison := false }

/-- EngineEvents: copies to a tile and to a line of DRAM below the L2. -/
theorem witness_copy_lands : (copyWrite true 0x40000).addr < 2 ^ 23 ∧ owner.tmem.wf = true ∧
    (owner.counts.length = 5 ∧ owner.clocks.length = 5 ∧ (∀ v ∈ owner.clocks, v.length = 5) ∧ owner.sends = [] ∧ owner.latent = [] ∧
      owner.mem.wf = true) ∧
    someWith (leafAt (match data.capture 0 0 .read memorySide [2] with
      | .ok ps => ps
      | .error _ => []) (copyWrite false 0x20000).addr) (fun l => !l.d && region (l.pa 0x20000) == .fast && l.ca == 2) = true := by
  decide +kernel

/-- A bank command of four elements of page 2. -/
def banked (kind ef : Nat) : BankCmd :=
  { id := 3, slot := 0, part := 0, asid := 0, node := false, kind := kind, recVa := 0x20400, ef := ef, expr := [1], consts := [], a := 0x20500
    b := 0x20500, c := 0, d := 0x20600, n := 4, tag := 1, entries := [(0x20700, 5)]
    pages := match data.capture 0 0 .read memorySide [2] with
      | .ok ps => ps
      | .error _ => [] }

/-- The data state with that command. -/
def banking (kind ef : Nat) : State := { data with bank := [banked kind ef] }

/-- EngineEvents: bank commands of each kind that may act, with a record that can be written. -/
theorem witness_bank_events :
    (∀ k ∈ [0, 1, 2, 3, 4], (banking k 7).bankCmd 3 = some (banked k 7) ∧ (banking k 7).bankTurn (banked k 7) = true ∧ (banked k 7).owed = []) ∧
    (∀ k ∈ [(0, 0), (2, 7)], let s := banking k.1 k.2; let c := banked k.1 k.2
      (s.bankMeet c (s.unread c c.units)).firstBad c = none) ∧
    (banked 0 0).recVa.toNat % 128 = 0 ∧ someWith (leafAt (banked 0 0).pages ((banked 0 0).recVa.toNat + 0x58)) (fun l => !l.d) = true ∧
    0 < ((banked 2 7).n + 31) / 32 ∧ 0 ∉ (banked 2 7).seen ∧ (banking 2 7).boxes = [] ∧
    (banking 2 7).wakeOf ((banked 2 7).boxTo 0) ≠ BitVec.allOnes 8 ∧
    (let m : MailBox := { core := 0, box := 0, src := 0, cmd := 3, block := 0, data := 7 }
     let s := { banking 2 7 with boxes := [m] }; s.boxes = m :: [] ∧ m.cmd = (banked 2 7).id) ∧ (banking 0 0).mayInvalidate 0 6 = false ∧
    (let s := banking 2 7; let c := banked 2 7; okWith ((s.bankMeet c (s.unread c [0])).blockOf c 0) (fun _ => true) = true) ∧
    (banking 3 0).cur.status = .running ∧ (banking 3 0).busy 0 = true ∧ (banking 3 0).cur.slot = (banked 3 0).slot ∧ (banked 4 0).entries = [(0x20700, 5)] ∧
    (((banking 4 0).bankMeet (banked 4 0) [0x20700]).bankGet (banked 4 0) 0x20700 32).2 = false ∧ (banked 4 0).ty.isFp = false := by decide +kernel

/-- The outputs of a command of four elements are apart from its record and its inputs (Claims.BankApart). -/
def apart (c : BankCmd) (n w : Nat) : Bool :=
  c.d % w == 0 && c.recVa.toNat % 128 == 0 && (List.range n).all fun j =>
    someWith (bankLine c (c.d + j * w)) fun x => bankLine c c.recVa.toNat != some x && (c.readVas.all fun va => bankLine c va != some x) &&
      (List.range n).all fun i => bankLine c (c.d + i * w) != some x || (c.d + i * w) / 128 == (c.d + j * w) / 128

/-- EngineEvents: results of a map, a dot and a reduce that stand apart, an expression that has a value, and a gather whose pending
result waits for one element. -/
theorem witness_bank_results :
    apart (banked 0 0) 4 (banked 0 0).wb = true ∧ (banked 0 0).ty.bits = 8 * (banked 0 0).wb ∧ (banked 0 0).wb = 4 ∧
    apart (banked 1 7) (ceilDiv (banked 1 7).n 32) 4 = true ∧ apart (banked 2 7) 1 4 = true ∧ (banked 2 7).acc = none ∧
    (evalPostfix .i32 [1] [] 0 0 0).isSome = true ∧ (∀ m ∈ (banking 2 7).boxes, m.cmd ≠ (banked 2 7).id) ∧
    (let c := banked 3 0; let p : Pending := { tag := 1, word := 0, slot := 0, done := false, vals := [{ reg := .v 3, val := 0 }] }
     p.tag = c.tag ∧ (c.entries.map (·.2)).Nodup ∧ base.cur.lanes = 1 ∧ (∀ e ∈ c.entries, e.2 < 1 * 512 / c.ty.bits) ∧
       512 % c.ty.bits = 0) := by decide +kernel

/-- The state whose operands of a map are poisoned. -/
def spoilt : State := { banking 0 0 with mem := data.mem.setPoison (0x60500 / 128) true }

/-- EngineEvents: a bank command that stops. -/
theorem witness_bank_stop : (let c := banked 0 0; ((spoilt.bankMeet c (spoilt.unread c c.units)).firstBad c).isSome) = true ∧ spoilt.bankCmd 3 = some (banked 0 0) ∧
    spoilt.bankTurn (banked 0 0) = true := by
  have h : (spoilt.firstBads (banked 0 0)).length = 1 := by decide +kernel
  refine ⟨?_, by decide +kernel, by decide +kernel⟩
  have g : spoilt.firstBads (banked 0 0) ≠ [] := fun e => by simp [e] at h
  have m : spoilt.bankMeet (banked 0 0) (spoilt.unread (banked 0 0) (banked 0 0).units) = spoilt := by decide +kernel
  simp [m, State.firstBad, g, h, Nat.mod_one]

/-- Registers of partition 0 changed. -/
def device (f : Part → Part) : State := { data with parts := data.parts.setIfInBounds 0 (f (data.partReg 0)) }

/-- A pending entry of the ring at 0x6_0A00, for the record at 0x2_0300. -/
def ring : State := (device fun r => { r with launch := 1, subbase := 0x60A00 }).plant 0x60A00 16 0x20300

/-- DeviceRegisters: counts within and beyond the ring, an entry that is taken and one in no region, and the values on both sides of
each register's rule. -/
theorem witness_device :
    (let n (v : Word) := (v.setWidth 12 - (base.partReg 0).subci).toNat
     n 2048 ≤ 2048 ∧ ((base.partReg 0).launch - (base.partReg 0).subci).toNat ≤ n 2048 ∧ 2048 < n 2049) ∧
    (ring.partReg 0).launch ≠ (ring.partReg 0).subci ∧ ring.rstctl.getLsbD 31 = false ∧
    (match ring.ringRead 0x60A00 with
     | ((x, false), u) => ringOk (BitVec.ofNat 64 x) (BitVec.ofNat 64 (x / 2 ^ 64)) && x == 0x20300 && okWith (u.submit 0 0 0x20300) fun _ => true
     | _ => false) = true ∧
    region (device fun r => { r with subbase := 0xC000000000 }).parts[0].subbase.toNat = .hole ∧
    bits (0 : Word) 0 4 ≠ 1 ∧ bits (2 : Word) 0 4 = 2 ∧ bits (12 : Word) 0 4 ≤ 12 ∧ 13 ≤ bits (13 : Word) 0 4 ∧
    (base.partReg 0).l2scr.getLsbD 31 = false ∧ ((device fun r => { r with l2scr := 0x80000000 }).partReg 0).l2scr.getLsbD 31 = true ∧
    bits (0x000000F500400001 : Word) 16 8 ≠ 0 ∧ bits (0x000000F500400001 : Word) 32 16 ≠ 0 ∧ bits (0x40001 : Word) 32 16 = 0 ∧
    bits (4 : Word) 0 3 = 4 ∧ bits (5 : Word) 0 3 ≠ 3 ∧ base.enabled 0 = false ∧
    (device fun r => { r with ppol := 0x80000003 }).enabled 0 = true ∧ base.cur.part = 0 ∧ base.switchWaits base.cur = false ∧ base.gathering 0 = false ∧
    (device fun r => { r with ppol := 0x80000003 }).partitionBusy 0 = true ∧ (∀ q < 16, base.partitionBusy q = false) := by decide +kernel

/-- ResetEvents: with and without KRET, and with nothing cached or on its way. -/
theorem witness_reset : ({ base with rstctl := 2 }.rstctl.getLsbD 1 = true) ∧ base.rstctl.getLsbD 1 = false ∧ base.l1 = [] ∧
    base.cc = [] ∧ base.l2 = [] ∧ base.sends = [] ∧ base.migs = [] ∧ base.fw.verified = true ∧ ({ valid := false } : Firmware).verified = false ∧ base.fw.live = true ∧
    ({ live := false } : Firmware).live = false := by
  decide +kernel

/-- A link in some state. -/
def linked (l : Link) : State := { base with links := [l] }

/-- EdgeEvents: bytes outside the frame owner table, wherever the reserve holds it. -/
theorem witness_outside_table : ∀ k < 8, tableIndex (0x50000 + k) = none := fun k h =>
  if_neg (by unfold tableBase; omega)

/-- EdgeEvents: links to receive, to send again, to repair, to retrain and to take down, and accesses of every kind of place. -/
theorem witness_edge :
    (143 : Nat) < 144 ∧ (base.linkOf 143).up = true ∧ (0 : Nat) = (base.linkOf 143).rxNext ∧ (1 : Nat) ≠ (base.linkOf 143).rxNext ∧
    ((linked { port := 1, txNext := 3, acked := 1 }).linkOf 1).unacked 2 = true ∧
    ((linked { port := 1, txNext := 3, acked := 1 }).linkOf 1).unacked 3 = false ∧
    (let s := linked { port := 1, failing := some 1 }; (s.linkOf 1).failing = some 1 ∧ (s.linkOf 1).stuck = false ∧ (s.linkOf 1).queue = []) ∧
    (let l := (linked { port := 1, stuck := true }).linkOf 1; l.stuck = true ∧ l.retrains < 3) ∧ 3 ≤ ((linked { port := 1, retrains := 3 }).linkOf 1).retrains ∧
    region 0xC000000000 = .hole ∧ region 0x50000 ≠ .device ∧ base.accepts 0x50000 8 = true ∧ base.accepts 0x5007F 1 = true ∧
    region 0x20000000000 = .cap ∧ base.accepts 0x20000000000 8 = true ∧ base.sends = [] ∧ base.latent = [] ∧ base.mem.wf = true ∧
    { base with rstctl := 0x80000000 }.rstctl.getLsbD 31 = true := by decide +kernel

/-! ### The whole machine -/

/-- DecodeEncode and DecodeWellFormed: a word, and the bits that decode to it. -/
theorem witness_words : IsWord { ctl := {}, body := .full (.add 1 2 3) } ∧
    IsWord { ctl := { cb := true }, body := .pair (.pairScalarRR 0 4 5 6) (.pairAddi 9 10 3) } ∧
    decode (rawWord 0 0x0005187000000000) = .ok { ctl := {}, body := .full (.add 5 6 7) } := by
  unfold IsWord; decide +kernel

/-- The base state with a word at its program counter. -/
def running (x : Nat) : State := State.reset.withFetchWord 80 x

/-- MemoryKept: a state that keeps the form and steps. -/
theorem witness_memory_kept : MemoryInv base ∧ nextWith (step base) (fun _ => true) = true := by
  unfold MemoryInv; decide +kernel

/-- The word at the program counter is fetched, decodes, meets no cause, event or conflict, and passes its waits. -/
def issues (s : State) : Bool :=
  s.agenda == [] && s.cur.status == .running && !s.midWord && someWith s.regrain fun g => okWith g.fetchWord fun r =>
    match decode r.1 with
    | .ok w =>
      let is := g.cur.issuing w.body
      (g.postedDue == none) && (g.eventNow == none) && g.cur.super &&
        (g.cur.held || (g.cur.conflict w is == none && okWith (r.2.prep w is) fun _ => true))
    | .illegal _ _ _ => false

/-- StepRunsWord: a word that issues, one that held issue, a pair whose slots both retire, each kind of move, a hart that runs and one
that is idle. -/
theorem witness_step : issues (running 0x0005187000000000) = true ∧ issues ((running 0).mapCur fun c => { c with held := true }) = true ∧
    issues (running 0x400828C00124A003) = true ∧
    (let s := running 0x400828C00124A003
     nextWith (exec (.pairScalarRR 0 4 5 6) (s.mapCur fun c => { c with views := some c.view })) (fun ta => ta.cur.fate == .retired &&
       nextWith (exec (.pairAddi 9 10 3) (ta.mapCur fun c => { c with pslot := 1 })) fun _ => true) = true ∧
     nextWith (exec (.pairAddi 9 10 3) (s.mapCur fun c => { c with views := some c.view, pslot := 1 })) (fun tb => tb.cur.fate == .retired) = true) ∧
    (∀ m ∈ [Move.event .sensorSample, .turn 0, .flaw 0xA00 true, .stop 0 2, .upset 0 (.v 9) 12], { base with agenda := [m] }.agenda = m :: []) ∧ base.runs 0 = true ∧
    base.agenda = [] ∧ State.reset.cur.status ≠ .running := by decide +kernel

/-- StepRunsWord: a stalled append, a cause that waits, and a switch-out that has been decided. -/
theorem witness_mid_word : ((history 4 4 0 [waits]).mapCur fun c => { c with held := true }).appending = true ∧
    (let s := on fun c => { c with due := some ({ code := 0xC3, tval := 0 }, 0) }; s.appending = false ∧ s.cur.due.isSome = true) ∧
    (let s := on fun c => { c with leaving := true }; s.appending = false ∧ s.cur.due = none ∧ s.leavesNow = true) := by decide +kernel

/-- StepRunsWord: an evicted granule of a context whose image cannot be reached; which granules are read again is free (log 3). -/
theorem witness_lost : base.midWord = false ∧ base.imageLine 0 0 base.cur.image.toNat 8 = none := by decide +kernel

/-! ### Single steps, with results worked out by hand from the rules -/

/-- Scalar register `n` after the instruction. -/
def leaves (i : Instr) (s : State) (n : Nat) (x : Word) : Bool := nextWith (exec i s) fun t => t.cur.s.getD n 0 == x

/-- Registers s2 and s3 as given. -/
def two (x y : Word) : State := on fun c => reg 3 y (reg 2 x c)

/-- R213: a sum wraps; the high half of -1 times 1 is all ones signed and zero unsigned; a shift takes six bits of its count. -/
theorem test_scalar_results : leaves (.add 1 2 3) (two (-1) 1) 1 0 && leaves (.mulh 1 2 3) (two (-1) 1) 1 (-1) &&
    leaves (.mulhu 1 2 3) (two (-1) 1) 1 0 && leaves (.sar 1 2 3) (two (-8) 65) 1 (-4) && leaves (.shr 1 2 3) (two (-8) 63) 1 1 &&
    leaves (.sltu 1 2 3) (two (-1) 1) 1 0 && leaves (.slt 1 2 3) (two (-1) 1) 1 1 && leaves (.add 0 2 3) (two 5 1) 0 0 = true := by
  decide +kernel

/-- R214: division by zero and the overflowing division. -/
theorem test_division : leaves (.div 1 2 3) (two 7 0) 1 (-1) && leaves (.rem 1 2 3) (two 7 0) 1 7 &&
    leaves (.div 1 2 3) (two 0x8000000000000000 (-1)) 1 0x8000000000000000 && leaves (.rem 1 2 3) (two 0x8000000000000000 (-1)) 1 0 &&
    leaves (.div 1 2 3) (two (-7) 2) 1 (-3) && leaves (.rem 1 2 3) (two (-7) 2) 1 (-1) = true := by decide +kernel

/-- R215: a sign-extended field, a field put in, and the upper half of a constant. -/
theorem test_immediates : leaves (.sext 1 2 8) (two 0x180 0) 1 (-128) && leaves (.bfi 2 3 4 8) (two 0xFFFF 0) 2 0xF00F &&
    leaves (.bfx 1 2 4 8) (two 0xABCD 0) 1 0xBC && leaves (.liHi 2 0x12345678) (two 0xFFFFFFFF9ABCDEF0 0) 2 0x123456789ABCDEF0 = true := by
  decide +kernel

/-- R218, R219: 1 + 1, 1 / 3 rounded to nearest, infinity minus infinity with IV, and a comparison with NaN. -/
theorem test_float : leaves (.fadd 1 2 3 .rne) (two 0x3F800000 0x3F800000) 1 0x40000000 &&
    leaves (.fdiv 1 2 3 .rne) (two 0x3F800000 0x40400000) 1 0x3EAAAAAB && leaves (.fsub 1 2 3 .rne) (two 0x7F800000 0x7F800000) 1 0x7FC00000 &&
    leaves (.fcmpUo 1 2 3) (two 0x7FC00000 0) 1 1 && leaves (.fcmpEq 1 2 3) (two 0x80000000 0) 1 1 &&
    leaves (.fcvtI32F32 1 2 .rtz) (two 0xC0600000 0) 1 (-3) = true := by decide +kernel

/-- R222: a taken branch adds its offset in words, one not taken goes on, and `jal` links the next word. -/
theorem test_branches : nextWith (exec (.beq 2 3 (-4)) (two 5 5)) (fun t => t.cur.pc == -4) &&
    nextWith (exec (.beq 2 3 (-4)) (two 5 6)) (fun t => t.cur.pc == 1) && leaves (.jal 1 9) base 1 1 = true := by decide +kernel

/-- R232: 100 elements of 32 bits asked of one lane give 16. -/
theorem test_setvl : leaves (.setvl 1 2 4) (two 100 0) 1 16 && leaves (.setvl 1 2 4) (two 3 0) 1 3 = true := by decide +kernel

/-- Registers v4 and v6 hold 32-bit elements 1, 2, 3 and all ones; vl is 3. -/
def pairOf : State := on fun c =>
  { ctl 0 3 c with v := (c.v.setIfInBounds 4 0x00000004000000030000000200000001).setIfInBounds 6 0xFFFFFFFFFFFFFFFFFFFFFFFFFFFFFFFF }

/-- R236, R241: sums wrap, and the tail becomes zero with tz and stays with tu. -/
theorem test_vadd : nextWith (exec (.vadd { good with tp := false }) pairOf) (fun t => t.cur.v.getD 2 0 == 0x000000020000000100000000) &&
    nextWith (exec (.vadd { good with rd := 6, tp := true }) pairOf) (fun t => t.cur.v.getD 6 0 == 0xFFFFFFFF000000020000000100000000) =
      true := by decide +kernel

/-- R247: 1 + 2 + 3 onto a seed of all ones is 5. -/
theorem test_vredsum : nextWith (exec (.vredsum good) pairOf) (fun t => t.cur.v.getD 2 0 == 5) = true := by decide +kernel

/-- R250: `mnot m0, m3` has no effect, and `mnot m1, m3` sets the bits below vl. -/
theorem test_mnot : nextWith (exec (.mnot { rd := 0, rs1 := 3 }) pairOf) (fun t => t.cur.m == pairOf.cur.m) &&
    nextWith (exec (.mnot { rd := 1, rs1 := 3 }) pairOf) (fun t => t.cur.m.getD 1 0 == 7) = true := by decide +kernel

/-- R253, R26: a word stored in a tile is there, low byte first, and a byte of it loads with its sign. -/
theorem test_tile_store : nextWith (exec (.st 2 3 .w .plain .h 0) (owner.mapCur fun c => reg 3 0x123456F8 (reg 2 0x7FF00000040010 c)))
    (fun t => t.tmem.byte (tileAddr 0 4 0x10) == 0xF8 && t.tmem.byte (tileAddr 0 4 0x13) == 0x12 && leaves (.ld 1 2 .b .plain .h 0) t 1 (-8)) =
      true := by decide +kernel

/-- R261: an atomic sum gives the old word and leaves the new one. -/
theorem test_amo_add : nextWith (exec (.amoAdd { rd := 1, rs1 := 2, rs2 := 3, dbl := false, ord := .plain, sc := .c, disp := 0 })
      { (owner.mapCur fun c => reg 3 5 (reg 2 0x7FF00000040010 c)) with
        tmem := owner.tmem.setLine (tileAddr 0 4 0 / 128) (0xFFFFFFFF <<< 128) })
    (fun t => t.cur.s.getD 1 0 == (-1) && t.tmem.byte (tileAddr 0 4 0x10) == 4 && t.tmem.byte (tileAddr 0 4 0x14) == 0) = true := by
  decide +kernel

/-- R267, R268: an append raises HEAD and the count of level 0. -/
theorem test_happ : nextWith (exec (.happ 2 8) (history 3 2 0 [])) (fun t => t.hHead (streamWith []) == 4 && t.hCnt (streamWith []) 0 == 3) =
    true := by decide +kernel

/-- R273: `pool.pop` of a pool that holds two entries gives the second and leaves one. -/
theorem test_pool_pop : nextWith (exec (.poolPop 1 2) ((pool 2).plant 0x60208 8 0x77)) (fun t => t.cur.s.getD 1 0 == 0x77 &&
    okWith (t.poolOpen 0x20040) fun r => r.1.2.2 == 1) = true := by decide +kernel

/-- R358: `trap 7` on the open light route: cause 4 with its immediate, the next word to return to, supervisor mode, ctl.tvec as pc. -/
theorem test_trap : nextWith (exec (.trap 7) ((on (ctl 23 0x8000000F00010000)).mapCur fun c => { c with super := false })) (fun t =>
    t.cur.super && t.cur.pc == 0x10000 && t.cur.cr 26 == 0x0000000700000004 && t.cur.cr 25 == 1 && t.cur.cr 24 == 1) = true := by
  decide +kernel

/-- R196, R367: a reserved rounding mode is not taken, and a read-only control register stays. -/
theorem test_ctl : nextWith (exec (.ctlWr 13 2) (two 5 0)) (fun t => t.cur.cr 13 == base.cur.cr 13) &&
    nextWith (exec (.ctlWr 13 2) (two 4 0)) (fun t => t.cur.cr 13 == 4) = true := by decide +kernel

/-- R148: the last member's arrival begins the next phase. -/
theorem test_barrier : nextWith (exec (.barArr 1 0) (team 1)) (fun t => someWith (t.groupOf 0) fun g => (t.barrier g.1 0).phase == 1) =
    true := by decide +kernel

/-- R51: a tile given away free has no owner, and a free one that is taken is the context's own. -/
theorem test_tiles : nextWith (exec (.ownGive 4 0 0) owner) (fun t => tileKind (t.tile 0 4).owner == 0) &&
    nextWith (exec (.ownTake 5 0) owner) (fun t => tileKind (t.tile 0 5).owner == 1) = true := by decide +kernel

/-- R350: the case of the rule: a channel that owes 4 begins its next period with 316 of 320, another one with 320. -/
theorem test_debt : (let s : State := { base with credits := [(creditKey 5 .knead, -4), (creditKey 6 .knead, 80)], time := 2 ^ 20 }
     nextWith (exec .timeBasePeriod s) fun t => t.credit 5 .knead == 316 && t.credit 6 .knead == 320) = true := by decide +kernel

/-- R388: after three failed retrains a port takes no fourth, and goes down. -/
theorem test_port_down : (let s := linked { port := 1, stuck := true, retrains := 3 }
     nextWith (exec (.retrain 1 true) s) (fun t => (t.linkOf 1).stuck) && nextWith (exec (.portDown 1) s) fun t => !(t.linkOf 1).up) =
       true := by decide +kernel

/-- R298: an `mfetch` is an entry of the queue, and leaves it with its fetch still there. -/
theorem test_mfetch : (let f : TR := { rs1 := 21, rs2 := 2, rs3 := 23 }
     nextWith (exec (.mfetch f) matrix) fun t => t.cur.mq.length == 1 && t.cur.fetches.length == 1 &&
       nextWith (exec (.matrixEntryComplete 0) t) fun u => u.cur.mq == [] && u.cur.fetches == t.cur.fetches) = true := by decide +kernel

end Sys2Proof.Tests
end

section
/-! PROOFS. Scalar register instructions and divisions (10 R212 to R214). First the functions of R213 and R214 as the statements write them, then what
the two kinds of producer leave (R166, R168), then one lemma per shape of instruction, and the obligations from these. -/

namespace Sys2Proof.Machine

/-! ### Counts of bits (R213) -/

/-- The length of an initial run, by its first failure. -/
theorem length_takeWhile_range {n m : Nat} {p : Nat → Bool} (hm : m ≤ n) (run : ∀ k < m, p k = true)
    (stop : m < n → p m = false) : ((List.range n).takeWhile p).length = m := by
  induction m generalizing n p with
  | zero =>
    cases n with
    | zero => rfl
    | succ n => simp [List.range_succ_eq_map, stop (Nat.succ_pos n)]
  | succ m ih =>
    obtain ⟨n, rfl⟩ : ∃ k, n = k + 1 := ⟨n - 1, by omega⟩
    have tail := ih (n := n) (p := p ∘ Nat.succ) (by omega) (fun k hk => run (k + 1) (by omega)) fun h => stop (by omega)
    simp [List.range_succ_eq_map, List.takeWhile_map, run 0 (by omega), tail]

/-- Halving the range finds the power of two below a number. -/
theorem topBit_bounds (x k : Nat) (pos : x ≠ 0) (h : x < 2 ^ 2 ^ k) : 2 ^ topBit x k ≤ x ∧ x < 2 ^ (topBit x k + 1) := by
  induction k generalizing x with
  | zero => exact ⟨Nat.one_le_iff_ne_zero.mpr pos, h⟩
  | succ k ih =>
    unfold topBit
    split
    · next big =>
      have high : 0 < 2 ^ 2 ^ k := Nat.two_pow_pos _
      have square : 2 ^ 2 ^ (k + 1) = 2 ^ 2 ^ k * 2 ^ 2 ^ k := by rw [← Nat.pow_add, ← Nat.mul_two, ← Nat.pow_succ]
      obtain ⟨below, above⟩ := ih (x / 2 ^ 2 ^ k) (Nat.ne_of_gt (Nat.div_pos big high)) (Nat.div_lt_of_lt_mul (square ▸ h))
      rw [Nat.le_div_iff_mul_le high, ← Nat.pow_add, Nat.add_comm] at below
      rw [Nat.div_lt_iff_lt_mul high, ← Nat.pow_add, Nat.add_comm, ← Nat.add_assoc] at above
      exact ⟨below, above⟩
    · next small => exact ih x pos (Nat.lt_of_not_le small)

theorem topBit_eq_log2 {x k : Nat} (pos : x ≠ 0) (h : x < 2 ^ 2 ^ k) : topBit x k = x.log2 :=
  ((Nat.log2_eq_iff pos).mpr (topBit_bounds x k pos h)).symm

theorem word_lt_topBit_range (x : Word) {k : Nat} (hk : 6 ≤ k) : x.toNat < 2 ^ 2 ^ k :=
  Nat.lt_of_lt_of_le x.isLt (Nat.pow_le_pow_right Nat.two_pos (Nat.pow_le_pow_right (n := 2) Nat.two_pos hk))

theorem ilog2_eq_log2 {x : Word} (pos : x.toNat ≠ 0) : ilog2 x.toNat = x.toNat.log2 :=
  topBit_eq_log2 (k := 14) pos (word_lt_topBit_range (k := 14) x (by decide))

theorem leadingZeros_eq_run (x : Word) :
    leadingZeros 64 x.toNat = ((List.range 64).takeWhile fun k => !x.getLsbD (63 - k)).length := by
  unfold leadingZeros
  split
  · next zero =>
    have clear : ∀ k < 64, (!x.getLsbD (63 - k)) = true := by simp [BitVec.eq_of_toNat_eq (y := 0#64) zero]
    exact (length_takeWhile_range (Nat.le_refl 64) clear (absurd · (Nat.lt_irrefl 64))).symm
  · next pos =>
    have top : x.toNat.log2 < 64 := (Nat.log2_lt pos).mpr x.isLt
    rw [ilog2_eq_log2 pos]
    refine (length_takeWhile_range (by omega) (fun k hk => ?_) fun _ => ?_).symm
    · have above : x.toNat < 2 ^ (63 - k) := (Nat.log2_lt pos).mp (by omega)
      simp [← BitVec.testBit_toNat, Nat.testBit_lt_two_pow above]
    · have atTop : 63 - (64 - 1 - x.toNat.log2) = x.toNat.log2 := by omega
      simp [← BitVec.testBit_toNat, atTop, Nat.testBit_log2 pos]

theorem trailingZeros_eq_run (x n : Nat) : trailingZeros x n = ((List.range n).takeWhile fun k => !x.testBit k).length := by
  induction n generalizing x with
  | zero => rfl
  | succ n ih =>
    have tail : ((fun k => !x.testBit k) ∘ Nat.succ) = fun k => !(x / 2).testBit k := by
      funext k; simp [Nat.testBit_succ]
    rw [trailingZeros, ih, List.range_succ_eq_map, List.takeWhile_cons, List.takeWhile_map, tail]
    by_cases odd : x % 2 = 1 <;> simp [odd, Nat.add_comm]

theorem popCount_eq_countP (x n : Nat) : popCount x n = (List.range n).countP fun k => x.testBit k := by
  induction n generalizing x with
  | zero => rfl
  | succ n ih =>
    have tail : ((fun k => x.testBit k) ∘ Nat.succ) = fun k => (x / 2).testBit k := by
      funext k; simp [Nat.testBit_succ]
    rw [popCount, ih, List.range_succ_eq_map, List.countP_cons, List.countP_map, tail]
    rcases Nat.mod_two_eq_zero_or_one x with bit | bit <;> simp [bit, Nat.add_comm]

theorem clzWord_eq (x : Word) :
    clzWord x = BitVec.ofNat 64 ((List.range 64).takeWhile fun k => !x.getLsbD (63 - k)).length := by
  rw [clzWord, leadingZeros_eq_run]

theorem ctzWord_eq (x : Word) : ctzWord x = BitVec.ofNat 64 ((List.range 64).takeWhile fun k => !x.getLsbD k).length :=
  congrArg (BitVec.ofNat 64) (trailingZeros_eq_run x.toNat 64)

theorem popcWord_eq (x : Word) : popcWord x = BitVec.ofNat 64 ((List.range 64).countP fun k => x.getLsbD k) :=
  congrArg (BitVec.ofNat 64) (popCount_eq_countP x.toNat 64)

/-! ### High halves of products (R213) -/

theorem mulHigh_eq (x y : Word) : mulHigh x y = (x.signExtend 128 * y.signExtend 128).extractLsb' 64 64 := by
  have wide : x.signExtend 128 * y.signExtend 128 = BitVec.ofInt 128 (x.toInt * y.toInt) := (BitVec.ofInt_mul _ _).symm
  apply BitVec.eq_of_toNat_eq
  rw [mulHigh, wide, BitVec.extractLsb'_toNat, BitVec.toNat_ofInt, BitVec.toNat_ofInt, Nat.shiftRight_eq_div_pow]
  generalize x.toInt * y.toInt = z
  omega

theorem mulHighU_eq (x y : Word) : mulHighU x y = (x.setWidth 128 * y.setWidth 128).extractLsb' 64 64 := by
  have fits : x.toNat * y.toNat < 2 ^ 64 * 2 ^ 64 := Nat.mul_lt_mul'' x.isLt y.isLt
  apply BitVec.eq_of_toNat_eq
  rw [mulHighU, BitVec.extractLsb'_toNat, BitVec.toNat_ofNat, BitVec.toNat_mul, BitVec.toNat_setWidth_of_le (by decide),
    BitVec.toNat_setWidth_of_le (by decide), Nat.shiftRight_eq_div_pow, Nat.mod_eq_of_lt (b := 2 ^ 128) fits]

/-! ### Shifts, comparisons, and the smaller and the larger (R213) -/

theorem toNat_shiftCount (y : Word) : (y.extractLsb' 0 6).toNat = y.toNat % 64 := by simp

theorem shlWord_eq (x y : Word) : shlWord x y = x <<< (y.extractLsb' 0 6).toNat := by rw [toNat_shiftCount, shlWord]

theorem shrWord_eq (x y : Word) : shrWord x y = x >>> (y.extractLsb' 0 6).toNat := by rw [toNat_shiftCount, shrWord]

theorem sarWord_eq (x y : Word) : sarWord x y = x.sshiftRight (y.extractLsb' 0 6).toNat := by rw [toNat_shiftCount, sarWord]

theorem boolWord_slt (x y : Word) : boolWord (x.slt y) = if x.toInt < y.toInt then 1 else 0 := by
  simp only [boolWord, BitVec.slt_iff_toInt_lt]

theorem boolWord_ult (x y : Word) : boolWord (x.ult y) = if x.toNat < y.toNat then 1 else 0 := by
  simp only [boolWord, BitVec.ult_iff_toNat_lt]

theorem minS_eq (x y : Word) : minS x y = if x.toInt ≤ y.toInt then x else y := by
  simp only [minS, BitVec.slt_iff_toInt_lt, ← Int.not_le, ite_not]

/-- Where the operands are equal, either of them is the larger. -/
theorem maxS_eq (x y : Word) : maxS x y = if x.toInt ≤ y.toInt then y else x := by
  simp only [maxS, BitVec.slt_iff_toInt_lt]
  rcases Int.lt_trichotomy x.toInt y.toInt with lt | eq | gt
  · rw [if_pos lt, if_pos (Int.le_of_lt lt)]
  · rw [BitVec.toInt_inj.mp eq, ite_self, ite_self]
  · rw [if_neg (Int.lt_asymm gt), if_neg (Int.not_le.mpr gt)]

theorem minU_eq (x y : Word) : minU x y = if x.toNat ≤ y.toNat then x else y := by
  simp only [minU, BitVec.ult_iff_toNat_lt, ← Nat.not_le, ite_not]

/-- Where the operands are equal, either of them is the larger. -/
theorem maxU_eq (x y : Word) : maxU x y = if x.toNat ≤ y.toNat then y else x := by
  simp only [maxU, BitVec.ult_iff_toNat_lt]
  rcases Nat.lt_trichotomy x.toNat y.toNat with lt | eq | gt
  · rw [if_pos lt, if_pos (Nat.le_of_lt lt)]
  · rw [BitVec.eq_of_toNat_eq eq, ite_self, ite_self]
  · rw [if_neg (Nat.lt_asymm gt), if_neg (Nat.not_le.mpr gt)]

/-! ### Divisions (R214) -/

/-- −2^63 by −1 is 2^63, which wraps to the dividend. -/
theorem ofInt_tdiv_corner {x y : Word} (corner : x.toInt = -2 ^ 63 ∧ y.toInt = -1) :
    BitVec.ofInt 64 (x.toInt.tdiv y.toInt) = x := by
  have hx : BitVec.ofInt 64 x.toInt = x := BitVec.ofInt_toInt
  rw [← hx, corner.1, corner.2]
  decide

/-- −1 divides every dividend. -/
theorem ofInt_tmod_corner {x y : Word} (corner : x.toInt = -2 ^ 63 ∧ y.toInt = -1) :
    BitVec.ofInt 64 (x.toInt.tmod y.toInt) = 0 := by
  rw [corner.1, corner.2]
  decide

theorem divS_eq (x y : Word) : divS x y = if y = 0 then BitVec.allOnes 64
    else if x.toInt = -2 ^ 63 ∧ y.toInt = -1 then x else BitVec.ofInt 64 (x.toInt.tdiv y.toInt) := by
  unfold divS
  congr 1
  split
  · next corner => exact ofInt_tdiv_corner corner
  · rfl

theorem remS_eq (x y : Word) : remS x y = if y = 0 then x
    else if x.toInt = -2 ^ 63 ∧ y.toInt = -1 then 0 else BitVec.ofInt 64 (x.toInt.tmod y.toInt) := by
  unfold remS
  congr 1
  split
  · next corner => exact ofInt_tmod_corner corner
  · rfl

end Sys2Proof.Machine

namespace Sys2Proof.Safety

open Sys2Proof.Machine

/-! ### Where the context stands -/

/-- `d` stands at the word of `c`, in the same pair and, for a producer that runs again, with the same resume word (R163, R169). -/
structure SameWord (c d : Ctx) : Prop where
  views : d.views = c.views
  pc : d.pc = c.pc
  rpt : d.rpt = c.rpt
  rword : d.rword = c.rword

theorem SameWord.refl (c : Ctx) : SameWord c c := ⟨rfl, rfl, rfl, rfl⟩

theorem SameWord.trans {c d e : Ctx} (h : SameWord c d) (k : SameWord d e) : SameWord c e :=
  ⟨k.views.trans h.views, k.pc.trans h.pc, k.rpt.trans h.rpt, k.rword.trans h.rword⟩

theorem sameWord_clearMarks (c : Ctx) (r : PReg) : SameWord c (c.clearMarks r) := by
  cases r <;> exact ⟨rfl, rfl, rfl, rfl⟩

theorem sameWord_putReg (c : Ctx) (r : PReg) (x : Nat) (hit : BitVec 32) : SameWord c (c.putReg r x hit) := by
  cases r with
  | s n | m n => unfold Ctx.putReg; dsimp only; split <;> exact ⟨rfl, rfl, rfl, rfl⟩
  | v n | c n | q n | t n => exact ⟨rfl, rfl, rfl, rfl⟩

theorem sameWord_writeReg (c : Ctx) (r : PReg) (x : Nat) : SameWord c (c.writeReg r x) := by
  unfold Ctx.writeReg
  refine .trans ?_ (sameWord_putReg _ r x _)
  refine .trans ?_ (sameWord_clearMarks _ r)
  exact ⟨rfl, rfl, rfl, rfl⟩

theorem sameWord_orFlags (c : Ctx) (f : Flags) : SameWord c (c.orFlags f) := by
  unfold Ctx.orFlags
  split <;> exact ⟨rfl, rfl, rfl, rfl⟩

theorem sameWord_wroteTag (c : Ctx) (tag : Nat) : SameWord c (c.wroteTag tag) := by
  unfold Ctx.wroteTag
  split <;> exact ⟨rfl, rfl, rfl, rfl⟩

/-- A word that retires from a context that stands where it stood goes on (R169, R221). -/
theorem wentOn_advance {s : State} {d : Ctx} (h : SameWord s.cur d) : WentOn s { s with cur := d.advance } := by
  unfold WentOn Ctx.advance
  rw [h.views]
  cases s.cur.views <;> simp [h.pc, h.rpt, h.rword]

/-! ### Results made visible (R168) -/

theorem kept_wroteTag (rs : List PReg) (c : Ctx) (tag : Nat) : KeptBut rs c (c.wroteTag tag) := by
  unfold Ctx.wroteTag
  split <;> exact kept_of_regs rfl rfl rfl rfl rfl rfl rfl rfl

theorem wroteTag_pend (c : Ctx) (tag : Nat) : (c.wroteTag tag).pend = c.pend := by
  unfold Ctx.wroteTag
  split <;> rfl

theorem advance_pend (c : Ctx) : c.advance.pend = c.pend := by
  unfold Ctx.advance
  split <;> rfl

theorem regVal_putReg_s (c : Ctx) (n x : Nat) (hit : BitVec 32) (h : n < 64) :
    (c.putReg (.s n) x hit).regVal (.s n) = if n = 0 then 0 else x % 2 ^ 64 := by
  unfold Ctx.putReg Ctx.regVal
  dsimp only
  split
  · rfl
  · simp [vec_getD_set _ _ _ _ h]

theorem cr_orFlags (c : Ctx) (f : Flags) : (c.orFlags f).cr 14 = c.cr 14 ||| f.setWidth 64 := by
  unfold Ctx.orFlags
  split
  · next raised => simp [raised]
  · exact cr_setCr c 14 _ (by decide)

theorem cr_advance (c : Ctx) (n : Nat) : c.advance.cr n = c.cr n := (kept_advance [] c).ctl n (by simp)

section Scalar

variable {v : RegVal} {n : Nat} (hr : v.reg = .s n)
include hr

theorem kept_showVal_s {rs : List PReg} (c : Ctx) (h : PReg.s n = .s 0 ∨ .s n ∈ rs) : KeptBut rs c (c.showVal v) := by
  unfold Ctx.showVal
  split
  · exact .refl rs c
  · simp only [hr]
    refine .trans ?_ (kept_putReg rs _ _ _ _ h)
    refine .trans ?_ (kept_clearMarks rs _ _ h)
    exact kept_of_regs rfl rfl rfl rfl rfl rfl rfl rfl

theorem sameWord_showVal_s (c : Ctx) : SameWord c (c.showVal v) := by
  unfold Ctx.showVal
  split
  · exact .refl c
  · simp only [hr]
    refine .trans ?_ (sameWord_putReg _ _ _ _)
    refine .trans ?_ (sameWord_clearMarks _ _)
    exact ⟨rfl, rfl, rfl, rfl⟩

theorem regVal_showVal_s (c : Ctx) (hw : v.wrote = false) (hn : n < 64) :
    (c.showVal v).regVal (.s n) = if n = 0 then 0 else v.val % 2 ^ 64 := by
  unfold Ctx.showVal
  simp only [hw, hr]
  exact regVal_putReg_s _ n _ _ hn

end Scalar

/-- A pending result of one scalar register, made visible, is there, its flags are ORed in, and no other register has changed. -/
theorem showPending_scalar (c : Ctx) {p : Pending} {v : RegVal} {n : Nat} (hp : p.vals = [v]) (hr : v.reg = .s n)
    (hw : v.wrote = false) (hn : n < 64) {rs : List PReg} (hd : PReg.s n = .s 0 ∨ .s n ∈ rs) :
    (c.showPending p).regVal (.s n) = (if n = 0 then 0 else v.val % 2 ^ 64) ∧
      (c.showPending p).cr 14 = c.cr 14 ||| p.flags.setWidth 64 ∧
      KeptBut (.c 14 :: rs) c (c.showPending p) ∧ SameWord c (c.showPending p) := by
  simp only [Ctx.showPending, hp, List.foldl_cons, List.foldl_nil]
  generalize hq : { c with pend := _ } = q
  have keptQ (l : List PReg) : KeptBut l c (q.wroteTag p.tag) :=
    .trans (hq ▸ kept_of_regs rfl rfl rfl rfl rfl rfl rfl rfl) (kept_wroteTag l q _)
  have sameQ : SameWord c (q.wroteTag p.tag) := .trans (hq ▸ ⟨rfl, rfl, rfl, rfl⟩) (sameWord_wroteTag q _)
  generalize q.wroteTag p.tag = b at keptQ sameQ ⊢
  have shown (l : List PReg) (h : PReg.s n = .s 0 ∨ .s n ∈ l) : KeptBut l c (b.showVal v) :=
    (keptQ l).trans (kept_showVal_s hr b h)
  refine ⟨?_, ?_, ?_, ?_⟩
  · rw [regVal_orFlags, regVal_showVal_s hr b hw hn]
  · rw [cr_orFlags, (shown [.s n] (.inr (List.mem_singleton_self _))).ctl 14 (by simp)]
  · exact .trans (shown _ (hd.imp_right (List.mem_cons_of_mem _))) (kept_orFlags _ _ _ List.mem_cons_self)
  · exact sameQ.trans (.trans (sameWord_showVal_s hr b) (sameWord_orFlags _ _))

end Sys2Proof.Safety

namespace Sys2Proof.Claims

open Sys2Proof.Machine Sys2Proof.Safety

theorem toNat_eq_zero_iff (r : Reg) : r.toNat = 0 ↔ r = 0 := by
  rw [← BitVec.toNat_inj]; rfl

/-! ### What the producers leave (R166, R168) -/

/-- A fixed-latency producer of one scalar register gives its result. -/
theorem gives_of_produceFixed {i : Instr} {s : State} {rd : Reg} {x : Word}
    (hi : exec i s = (s.produceFixed [(.s rd.toNat, x.toNat)] 0).retire) : Gives i s rd x := by
  have kept : KeptBut (scalarDst rd) s.cur (s.produceFixed [(.s rd.toNat, x.toNat)] 0).cur :=
    kept_produceFixed _ s _ 0 (by simpa using dst_ok rd) (.inl rfl)
  have written : (s.produceFixed [(.s rd.toNat, x.toNat)] 0).cur = s.cur.writeReg (.s rd.toNat) x.toNat := orFlags_zero _
  refine ⟨_, hi, ?_, kept.trans (kept_advance _ _), rfl, wentOn_advance (written ▸ sameWord_writeReg _ _ _)⟩
  show Ctx.regVal (Ctx.advance (State.produceFixed s _ 0).cur) _ = _
  rw [regVal_advance, written, regVal_writeReg_s _ _ _ rd.isLt, Nat.mod_eq_of_lt x.isLt]
  simp only [toNat_eq_zero_iff]

/-- The pending result that a word issues with its control field, its place, PASS and its operands (R168, R169). -/
def issued (c : Ctx) (vals : List RegVal) (fl : Flags) (ops : List Word) : Pending :=
  { tag := c.ctl.sa.toNat, word := c.pc, slot := c.pslot, done := false, vals := vals, flags := fl, ops := ops, pass := c.pass
    reset := (c.redo.map (·.reset)).getD false }

/-- A context whose youngest pending result is `p`. -/
def awaiting (c : Ctx) (p : Pending) : Ctx := { c with pend := c.pend ++ [p] }

theorem kept_awaiting (rs : List PReg) (c : Ctx) (p : Pending) : KeptBut rs c (awaiting c p) :=
  kept_of_regs rfl rfl rfl rfl rfl rfl rfl rfl

theorem sameWord_awaiting (c : Ctx) (p : Pending) : SameWord c (awaiting c p) := ⟨rfl, rfl, rfl, rfl⟩

theorem produceVar_untagged {s : State} (h : s.cur.ctl.sa = 0) (vals : List RegVal) (fl : Flags) (ops : List Word) :
    s.produceVar vals fl none ops =
      { s with cur := (awaiting s.cur (issued s.cur vals fl ops)).showPending (issued s.cur vals fl ops) } :=
  if_pos ⟨h, rfl⟩

theorem produceVar_tagged {s : State} (h : s.cur.ctl.sa ≠ 0) (vals : List RegVal) (fl : Flags) (ops : List Word) :
    s.produceVar vals fl none ops =
      { s with cur := (awaiting s.cur (issued s.cur vals fl ops)).wroteTag s.cur.ctl.sa.toNat } :=
  if_neg fun k => h k.1

/-- A variable-latency producer of one scalar register gives its result, at once with SA = 0 and under its tag otherwise. -/
theorem givesVar_of_produceVar {i : Instr} {s : State} {rd : Reg} {x : Nat} {fl : Flags} {ops : List Word}
    (hi : exec i s = (s.produceVar [{ reg := .s rd.toNat, val := x }] fl none ops).retire) : GivesVar i s rd x fl ops := by
  unfold GivesVar
  by_cases now : s.cur.ctl.sa = 0
  · rw [produceVar_untagged now] at hi
    simp only [if_pos now]
    obtain ⟨value, flags, kept, same⟩ := showPending_scalar (awaiting s.cur (issued s.cur _ fl ops))
      (p := issued s.cur [{ reg := .s rd.toNat, val := x }] fl ops) rfl rfl rfl rd.isLt (dst_ok rd)
    refine ⟨_, hi, rfl, wentOn_advance ((sameWord_awaiting _ _).trans same), ?_, ?_, ?_⟩
    · exact (regVal_advance _ _).trans (value.trans (by simp only [toNat_eq_zero_iff]))
    · exact (cr_advance _ 14).trans flags
    · exact (kept_awaiting _ _ _).trans (kept.trans (kept_advance _ _))
  · rw [produceVar_tagged now] at hi
    simp only [if_neg now]
    refine ⟨_, hi, rfl, wentOn_advance ((sameWord_awaiting _ _).trans (sameWord_wroteTag _ _)), ?_, ?_⟩
    · exact (advance_pend _).trans (wroteTag_pend _ _)
    · exact (kept_awaiting _ _ _).trans ((kept_wroteTag [] _ _).trans (kept_advance _ _))

/-! ### The shapes of the scalar instructions (R212) -/

section Shapes

variable {i : Instr} {s : State} {rd a b c : Reg} {x : Word}

theorem gives_scalar1 {f : Word → Word} (clean : s.badS false [a] = false) (hi : exec i s = scalar1 rd a f s)
    (hx : f (s.opS 0 a) = x) : Gives i s rd x :=
  gives_of_produceFixed (hi.trans (by rw [scalar1, clean, hx]; rfl))

theorem gives_scalar2 {f : Word → Word → Word} (clean : s.badS false [a, b] = false) (hi : exec i s = scalar2 rd a b f s)
    (hx : f (s.opS 0 a) (s.opS 1 b) = x) : Gives i s rd x :=
  gives_of_produceFixed (hi.trans (by rw [scalar2, clean, hx]; rfl))

theorem gives_scalar3 {f : Word → Word → Word → Word} (clean : s.badS false [a, b, c] = false)
    (hi : exec i s = scalar3 rd a b c f s) (hx : f (s.opS 0 a) (s.opS 1 b) (s.opS 2 c) = x) : Gives i s rd x :=
  gives_of_produceFixed (hi.trans (by rw [scalar3, clean, hx]; rfl))

theorem givesVar_scalarVar2 {f : Word → Word → Word} (clean : s.badS false [a, b] = false)
    (hi : exec i s = scalarVar2 rd a b f s) (hx : f (s.opS 0 a) (s.opS 1 b) = x) :
    GivesVar i s rd x.toNat 0 [s.opS 0 a, s.opS 1 b] :=
  givesVar_of_produceVar (hi.trans (by rw [scalarVar2, clean, ← hx]; rfl))

/-- The four divisions of unpoisoned operands (R214). -/
theorem divides_of_clean (clean : s.badS false [a, b] = false) : Divides s rd a b :=
  ⟨givesVar_scalarVar2 clean rfl (divS_eq _ _), givesVar_scalarVar2 clean rfl rfl,
    givesVar_scalarVar2 clean rfl (remS_eq _ _), givesVar_scalarVar2 clean rfl rfl⟩

end Shapes

end Sys2Proof.Claims

namespace Sys2Proof.ScalarRegister

open Sys2Proof Sys2Proof.Machine Sys2Proof.Safety Sys2Proof.Claims

/-- Settles O2: each division is a variable-latency producer of R214's quotient or remainder. -/
theorem divisionResults : Obligations.DivisionResults := fun _ _ _ _ clean => divides_of_clean clean

/-- Settles O1: each instruction has one of three shapes, with a function that is R213's column. -/
theorem scalarRegisterResults : Obligations.ScalarRegisterResults := by
  intro s rd a b c
  refine ⟨fun two => ?_, fun one => ?_, fun three => ?_⟩
  · exact ⟨gives_scalar2 two rfl rfl, gives_scalar2 two rfl rfl, gives_scalar2 two rfl rfl,
      gives_scalar2 two rfl (mulHigh_eq _ _), gives_scalar2 two rfl (mulHighU_eq _ _),
      gives_scalar2 two rfl rfl, gives_scalar2 two rfl rfl, gives_scalar2 two rfl rfl,
      gives_scalar2 two rfl (shlWord_eq _ _), gives_scalar2 two rfl (shrWord_eq _ _), gives_scalar2 two rfl (sarWord_eq _ _),
      gives_scalar2 (f := fun x y => boolWord (x.slt y)) two rfl (boolWord_slt _ _),
      gives_scalar2 (f := fun x y => boolWord (x.ult y)) two rfl (boolWord_ult _ _),
      gives_scalar2 two rfl (minS_eq _ _), gives_scalar2 two rfl (maxS_eq _ _),
      gives_scalar2 two rfl (minU_eq _ _), gives_scalar2 two rfl (maxU_eq _ _), divides_of_clean two⟩
  · exact ⟨gives_scalar1 one rfl (clzWord_eq _), gives_scalar1 one rfl (ctzWord_eq _), gives_scalar1 one rfl (popcWord_eq _),
      gives_scalar1 one rfl rfl⟩
  · exact gives_scalar3 (f := fun x y z => if z = 0 then y else x) three rfl (ite_not ..).symm

end Sys2Proof.ScalarRegister
end

section
/-! PROOFS. `vclaim` and `vcfg` (11 R233, R234). First fields of a word and the vcfg that R234 leaves, then what a fixed-latency word keeps (R166)
and what a change of targets keeps (R143), then one theorem for each kind of context and the obligation from these. -/

namespace Sys2Proof.Machine

/-! ### Fields of a word -/

/-- A field depends on its own bits alone. -/
theorem bits_congr {w : Nat} {x y : BitVec w} {lo len : Nat} (h : ∀ i < len, x.getLsbD (lo + i) = y.getLsbD (lo + i)) :
    bits x lo len = bits y lo len :=
  congrArg BitVec.toNat (BitVec.eq_of_getLsbD_eq fun i hi => by
    rw [BitVec.getLsbD_extractLsb', BitVec.getLsbD_extractLsb', h i hi])

/-- A field that holds the bits of `y` reads as `y`. -/
theorem bits_eq_toNat {w len : Nat} {x : BitVec w} {y : BitVec len} {lo : Nat} (h : ∀ i < len, x.getLsbD (lo + i) = y.getLsbD i) :
    bits x lo len = y.toNat :=
  congrArg BitVec.toNat (BitVec.eq_of_getLsbD_eq fun i hi => by
    rw [BitVec.getLsbD_extractLsb', h i hi, decide_eq_true hi, Bool.true_and])

/-! ### The new vcfg (R234) -/

/-- What `vcfg` writes over the old value: GS, MP and TP of the word (R230, R234). -/
def configWord (old : Word) (gs : BitVec 3) (mp tp : Bool) : Word :=
  setBits (setBits (setBits old 4 3 gs.toNat) 8 1 (if mp then 1 else 0)) 9 1 (if tp then 1 else 0)

theorem execVcfg_eq (rd : Reg) (gs : BitVec 3) (mp tp : Bool) (s : State) :
    execVcfg rd gs mp tp s =
      (s.produceFixed [(.c 3, (configWord (s.cur.cr 3) gs mp tp).toNat), (.s rd.toNat, (s.cur.cr 3).toNat)] 0).retire := rfl

section ConfigWord

variable (old : Word) (gs : BitVec 3) (mp tp : Bool)

/-- Outside GS, MP and TP the old value stands. -/
theorem getLsbD_configWord_out {i : Nat} (hgs : i < 4 ∨ 7 ≤ i) (hmp : i ≠ 8) (htp : i ≠ 9) :
    (configWord old gs mp tp).getLsbD i = old.getLsbD i := by
  rw [configWord, getLsbD_setBits_out _ _ _ _ _ (by omega), getLsbD_setBits_out _ _ _ _ _ (by omega),
    getLsbD_setBits_out _ _ _ _ _ (by omega)]

theorem getLsbD_configWord_gs {i : Nat} (hi : i < 3) : (configWord old gs mp tp).getLsbD (4 + i) = gs.getLsbD i := by
  rw [configWord, getLsbD_setBits_out _ _ _ _ _ (by omega), getLsbD_setBits_out _ _ _ _ _ (by omega), getLsbD_setBits,
    if_pos (by omega), decide_eq_true (by omega), Bool.true_and, Nat.add_sub_cancel_left, BitVec.testBit_toNat]

theorem getLsbD_configWord_mp : (configWord old gs mp tp).getLsbD 8 = mp := by
  rw [configWord, getLsbD_setBits_out _ _ _ _ _ (by omega), getLsbD_setBits]
  cases mp <;> rfl

theorem getLsbD_configWord_tp : (configWord old gs mp tp).getLsbD 9 = tp := by
  rw [configWord, getLsbD_setBits]
  cases tp <;> rfl

theorem bits_configWord_gs : bits (configWord old gs mp tp) 4 3 = gs.toNat :=
  bits_eq_toNat fun _ hi => getLsbD_configWord_gs old gs mp tp hi

/-- SEW is unchanged (R234). -/
theorem bits_configWord_sew : bits (configWord old gs mp tp) 0 4 = bits old 0 4 :=
  bits_congr fun _ _ => getLsbD_configWord_out old gs mp tp (by omega) (by omega) (by omega)

theorem configWord_shiftRight : configWord old gs mp tp >>> 10 = old >>> 10 :=
  BitVec.eq_of_getLsbD_eq fun i _ => by
    rw [BitVec.getLsbD_ushiftRight, BitVec.getLsbD_ushiftRight,
      getLsbD_configWord_out old gs mp tp (by omega) (by omega) (by omega)]

end ConfigWord

end Sys2Proof.Machine

namespace Sys2Proof.Safety

open Sys2Proof.Machine

/-! ### What the kept registers say of whole register files -/

theorem vec_eq_of_getD {α : Type} {n : Nat} {v u : Vector α n} {d : α} (h : ∀ i, v.getD i d = u.getD i d) : v = u :=
  Vector.ext fun i hi => by simpa [vec_getD_eq, hi] using h i

theorem notMem_scalarDst {rd : Reg} {r : PReg} (h : r ≠ .s rd.toNat) : r ∉ scalarDst rd := by
  unfold scalarDst
  split <;> simp [h]

section Files

variable {rd : Reg} {c d : Ctx} (kept : KeptBut (scalarDst rd) c d)
include kept

theorem KeptBut.s_of_scalarDst {n : Nat} (h : n ≠ rd.toNat) : d.s.getD n 0 = c.s.getD n 0 :=
  kept.scal n (notMem_scalarDst fun e => h (PReg.s.inj e))

theorem KeptBut.v_of_scalarDst : d.v = c.v :=
  vec_eq_of_getD fun n => (kept.vec n (notMem_scalarDst nofun)).1

theorem KeptBut.m_of_scalarDst : d.m = c.m :=
  vec_eq_of_getD fun n => (kept.mask n (notMem_scalarDst nofun)).1

theorem KeptBut.creg_of_scalarDst : d.creg = c.creg :=
  vec_eq_of_getD fun n => kept.ctl n (notMem_scalarDst nofun)

end Files

/-! ### A fixed-latency word that raises no flag (R166) -/

theorem sameWord_writes (ws : List (PReg × Nat)) (c : Ctx) : SameWord c (ws.foldl (fun c w => c.writeReg w.1 w.2) c) := by
  induction ws generalizing c with
  | nil => exact .refl c
  | cons w _ ih => exact (sameWord_writeReg c w.1 w.2).trans (ih _)

theorem sameWord_produceFixed (s : State) (ws : List (PReg × Nat)) : SameWord s.cur (s.produceFixed ws 0).cur :=
  sameWord_writes ws s.cur

theorem cr_writeReg (c : Ctx) {n : Nat} (x : Nat) (h : n < 32) : (c.writeReg (.c n) x).cr n = BitVec.ofNat 64 x :=
  cr_setCr _ n _ h

/-- A fixed-latency producer of one scalar register changes no other register. -/
theorem kept_produceFixed_scalar (s : State) (rd : Reg) (x : Nat) :
    KeptBut (scalarDst rd) s.cur (s.produceFixed [(.s rd.toNat, x)] 0).cur.advance :=
  (kept_produceFixed _ s _ 0 (by simpa using dst_ok rd) (.inl rfl)).trans (kept_advance _ _)

theorem regVal_produceFixed_scalar (s : State) (rd : Reg) (x : Nat) :
    (s.produceFixed [(.s rd.toNat, x)] 0).cur.advance.regVal (.s rd.toNat) = if rd = 0 then 0 else x % 2 ^ 64 :=
  (regVal_advance _ _).trans ((regVal_writeReg_s s.cur _ x rd.isLt).trans (by simp only [Claims.toNat_eq_zero_iff]))

/-! ### Targets recomputed (R143) -/

/-- A context but for its target. -/
def untargeted (c : Ctx) : Ctx := { c with target := 0 }

/-- From `s` to `t` nothing changed but the targets of contexts. -/
structure TargetsOnly (s t : State) : Prop where
  cur : untargeted t.cur = untargeted s.cur
  others : t.others.map untargeted = s.others.map untargeted
  rest : { t with cur := s.cur, others := s.others } = s

theorem TargetsOnly.refl (s : State) : TargetsOnly s s := ⟨rfl, rfl, rfl⟩

theorem TargetsOnly.trans {s t u : State} (h : TargetsOnly s t) (k : TargetsOnly t u) : TargetsOnly s u where
  cur := k.cur.trans h.cur
  others := k.others.trans h.others
  rest := by
    have through : { u with cur := s.cur, others := s.others } =
        { { u with cur := t.cur, others := t.others } with cur := s.cur, others := s.others } := rfl
    rw [through, k.rest, h.rest]

theorem targetsOnly_mapCtx (s : State) (slot x : Nat) : TargetsOnly s (s.mapCtx slot fun c => { c with target := x }) := by
  unfold State.mapCtx
  split
  · exact ⟨rfl, rfl, rfl⟩
  · refine ⟨rfl, ?_, rfl⟩
    rw [List.map_map]
    refine List.map_congr_left fun c _ => ?_
    rw [Function.comp_apply]
    split <;> rfl

theorem targetsOnly_foldl {α : Type} {f : State → α → State} (h : ∀ s x, TargetsOnly s (f s x)) (l : List α) (s : State) :
    TargetsOnly s (l.foldl f s) := by
  induction l generalizing s with
  | nil => exact .refl s
  | cons x _ ih => exact (h s x).trans (ih _)

theorem targetsOnly_retarget (s : State) (cluster : Nat) : TargetsOnly s (s.retarget cluster) :=
  targetsOnly_foldl (fun s _ => targetsOnly_mapCtx s _ _) _ s

theorem sameWord_of_untargeted {c d : Ctx} (h : untargeted d = untargeted c) : SameWord c d :=
  ⟨(congrArg Ctx.views h :), (congrArg Ctx.pc h :), (congrArg Ctx.rpt h :), (congrArg Ctx.rword h :)⟩

end Sys2Proof.Safety

namespace Sys2Proof.Claims

open Sys2Proof.Machine Sys2Proof.Safety

/-! ### `vclaim` (R233) -/

/-- The lanes of a code within a context's image capacity, at most 8 (R233). -/
def claimable (c : Ctx) (code : BitVec 3) : Nat := min (min (laneCode code.toNat) 8) c.icap

/-- A context with a new request and floor, whose target is still to be computed. -/
def claiming (req floor : BitVec 3) (c : Ctx) : Ctx :=
  { c with lreq := claimable c req, lmin := claimable c floor, target := 0 }

theorem sameWord_claiming (req floor : BitVec 3) (c : Ctx) : SameWord c (claiming req floor c) := ⟨rfl, rfl, rfl, rfl⟩

/-- The state after a claim has been taken and before rd is written: a new request and floor, and every target recomputed (R143). -/
def claimed (s : State) (req floor : BitVec 3) : State := (s.mapCur (claiming req floor)).retarget s.cur.cluster

section Claim

variable {s : State} {rd : Reg} {req floor : BitVec 3}

theorem execVclaim_whole (whole : 16 ≤ s.cur.lreq) :
    execVclaim rd req floor s = (s.produceFixed [(.s rd.toNat, s.cur.lanes)] 0).retire := if_pos whole

theorem execVclaim_noLanes (short : s.cur.lreq < 16) (noLanes : s.cur.icap = 0) :
    execVclaim rd req floor s = (s.produceFixed [(.s rd.toNat, 0)] 0).retire :=
  (if_neg (Nat.not_le.mpr short)).trans (if_pos noLanes)

theorem execVclaim_taken (short : s.cur.lreq < 16) (lanes : s.cur.icap ≠ 0) :
    execVclaim rd req floor s =
      ((claimed s req floor).produceFixed [(.s rd.toNat, (claimed s req floor).cur.target)] 0).retire :=
  (if_neg (Nat.not_le.mpr short)).trans (if_neg lanes)

/-- A grant is at most 32 lanes (R142), so it is a word. -/
theorem toNat_lanes (c : Ctx) : (BitVec.ofNat 64 c.lanes).toNat = c.lanes := by
  have atMost : c.lanes ≤ 32 := Nat.min_le_right _ _
  exact Nat.mod_eq_of_lt (by omega)

theorem vclaim_whole_gives (whole : 16 ≤ s.cur.lreq) : Gives (.vclaim rd req floor) s rd (BitVec.ofNat 64 s.cur.lanes) :=
  gives_of_produceFixed (by rw [toNat_lanes]; exact execVclaim_whole whole)

theorem vclaim_noLanes_gives (short : s.cur.lreq < 16) (noLanes : s.cur.icap = 0) : Gives (.vclaim rd req floor) s rd 0 :=
  gives_of_produceFixed (execVclaim_noLanes short noLanes)

end Claim

end Sys2Proof.Claims

namespace Sys2Proof.VectorConfig

open Sys2Proof Sys2Proof.Machine Sys2Proof.Safety Sys2Proof.Claims

/-- A claim that is taken: the request and the floor are those of the word within the image capacity, rd has the new target, and
no other register has changed (R233). -/
theorem vclaim_taken {s : State} (rd : Reg) (req floor : BitVec 3) (short : s.cur.lreq < 16) (lanes : s.cur.icap ≠ 0) :
    ∃ t, exec (.vclaim rd req floor) s = .next t ∧ WentOn s t ∧
      t.cur.lreq = min (min (laneCode req.toNat) 8) s.cur.icap ∧ t.cur.lmin = min (min (laneCode floor.toNat) 8) s.cur.icap ∧
      t.cur.regVal (.s rd.toNat) = (if rd = 0 then 0 else t.cur.target % 2 ^ 64) ∧
      (∀ n, n ≠ rd.toNat → t.cur.s.getD n 0 = s.cur.s.getD n 0) ∧ t.cur.v = s.cur.v ∧ t.cur.m = s.cur.m ∧
      t.cur.creg = s.cur.creg ∧ t.mem = s.mem ∧ t.tmem = s.tmem ∧ t.nodes = s.nodes := by
  have taken := execVclaim_taken (rd := rd) (req := req) (floor := floor) short lanes
  have moved : TargetsOnly (s.mapCur (claiming req floor)) (claimed s req floor) := targetsOnly_retarget _ _
  generalize claimed s req floor = u at moved taken
  have same : SameWord s.cur u.cur := (sameWord_claiming req floor s.cur).trans (sameWord_of_untargeted moved.cur)
  have kept := kept_produceFixed_scalar u rd u.cur.target
  refine ⟨_, taken, wentOn_advance (s := s) (same.trans (sameWord_produceFixed u _)), ?_, ?_, ?_, fun n hn => ?_, ?_, ?_, ?_,
    (congrArg State.mem moved.rest :), (congrArg State.tmem moved.rest :), (congrArg State.nodes moved.rest :)⟩
  · exact (congrArg Ctx.lreq kept.rest :).trans (congrArg Ctx.lreq moved.cur :)
  · exact (congrArg Ctx.lmin kept.rest :).trans (congrArg Ctx.lmin moved.cur :)
  · have target : (u.produceFixed [(.s rd.toNat, u.cur.target)] 0).cur.advance.target = u.cur.target :=
      (congrArg Ctx.target kept.rest :)
    exact (regVal_produceFixed_scalar u rd _).trans (by rw [mapCur_cur, target])
  · exact (kept.s_of_scalarDst hn).trans (congrArg (fun c => c.s.getD n 0) moved.cur :)
  · exact kept.v_of_scalarDst.trans (congrArg Ctx.v moved.cur :)
  · exact kept.m_of_scalarDst.trans (congrArg Ctx.m moved.cur :)
  · exact kept.creg_of_scalarDst.trans (congrArg Ctx.creg moved.cur :)

/-- `vcfg` completes with the old vcfg in rd and `configWord` of it in vcfg, and with nothing else changed (R234). -/
theorem vcfg_configures (s : State) (rd : Reg) (gs : BitVec 3) (mp tp : Bool) :
    ∃ t, exec (.vcfg rd gs mp tp) s = .next t ∧ WentOn s t ∧ OutsideKept s t ∧ KeptBut (.c 3 :: scalarDst rd) s.cur t.cur ∧
      t.cur.regVal (.s rd.toNat) = (if rd = 0 then 0 else (s.cur.cr 3).toNat) ∧
      t.cur.cr 3 = configWord (s.cur.cr 3) gs mp tp := by
  refine ⟨_, execVcfg_eq rd gs mp tp s, wentOn_advance (sameWord_produceFixed s _), rfl, ?_, ?_, ?_⟩
  · refine .trans (kept_produceFixed _ s _ 0 ?_ (.inl rfl)) (kept_advance _ _)
    simpa using dst_ok rd
  · refine (regVal_advance _ _).trans ((regVal_writeReg_s _ _ _ rd.isLt).trans ?_)
    rw [Nat.mod_eq_of_lt (s.cur.cr 3).isLt]
    simp only [toNat_eq_zero_iff]
  · refine (cr_advance _ 3).trans (((kept_writeReg [.s rd.toNat] _ _ _ (.inr List.mem_cons_self)).ctl 3 (by simp)).trans ?_)
    exact (cr_writeReg s.cur _ (by decide)).trans (BitVec.ofNat_toNat ..)

/-- Settles O21: `vclaim` for a whole-cluster context, for one without lanes and for one whose claim is taken, and the fields of the
word that `vcfg` leaves. -/
theorem claimAndConfig : Obligations.ClaimAndConfig := by
  intro s rd req floor gs mp tp
  refine ⟨vclaim_whole_gives, vclaim_noLanes_gives, fun short lanes _ => vclaim_taken rd req floor short lanes, ?_⟩
  obtain ⟨t, next, went, outside, kept, value, config⟩ := vcfg_configures s rd gs mp tp
  refine ⟨t, next, went, outside, kept, value, ?_⟩
  rw [config]
  exact ⟨bits_configWord_gs .., getLsbD_configWord_mp .., getLsbD_configWord_tp .., bits_configWord_sew ..,
    getLsbD_configWord_out _ _ _ _ (by omega) (by omega) (by omega), configWord_shiftRight ..⟩

end Sys2Proof.VectorConfig
end
